-- ==== Sys2Proof/Word.lean ====
section
/-! DEFINITION. The bit vectors of the BCV that have a name of their own (00_scope.md R5, R7). -/

namespace Sys2Proof

/-- A 32-bit register value, bus word or SHA-256 word (R5 BUS_DATA_WIDTH, R165). -/
abbrev Word := BitVec 32

/-- A word index of the mnemonic, 0..2047 (R5 WORD_BITS, R82). -/
abbrev Index := BitVec 11

/-- A byte offset in the register space, 0x00..0xFF (R5 BUS_ADDR_WIDTH, R35). -/
abbrev Offset := BitVec 8

/-- A value of the width of the BitString register, 264 bits (R5 BS_WIDTH). -/
abbrev BitString := BitVec 264

end Sys2Proof
end

