-- ==== Sys2Proof/Config.lean ====
section
/-! DEFINITION. The OPEN parameters of 00_scope.md R5, which a model takes as arguments (R14), and the free value, a constant
without a body, so that no proof can use a particular value of it. -/

namespace Sys2Proof

/-- The OPEN parameters of R5, the same for the whole run (10_state.md R44). What depends on one takes a value of this type as
an argument (R14), and a statement about it holds for every value. -/
structure Params where
  /-- BCV_BASE of instance `k`: the platform address of its offset 0x00 (R5, R68, R70; U3). -/
  bcvBase : Nat → Nat
  /-- N_INSTANCES: how many BCV instances the platform has (R5, R70; U4). -/
  instances : Nat
  /-- HASH_LATENCY in clock cycles for the mnemonic length `L`: it may differ per `L` (R5, R240; U2). -/
  hashLatency : Nat → Nat
  /-- HASH_LATENCY is at least 1 (R5, R240). -/
  hashLatency_pos : ∀ L, 1 ≤ hashLatency L

/-- FREE VALUE: what `bus_rdata` carries in the cycle of an accepted-by-the-bus CMD write. R56 fixes only
`bus_err = 0` there, R207 and R52 fix `bus_rdata` for errors and for idle cycles. DESIGN CHOICE, log entry 1. -/
opaque Config.freeWriteData : Nat → Word

end Sys2Proof
end

