-- ==== Sys2Proof/Syntax.lean ====
section
/-! DEFINITION. The commands of the BCV (30_encoding.md R83), the register names of the host bus syntax
(R88, 10_state.md R35), and what the outside world can do to the block (00_scope.md R11). -/

namespace Sys2Proof

/-- The five commands of R83, the whole command set (R90). -/
inductive Instr where
  /-- NOP (R101). -/
  | nop
  /-- CLEAR (R102). -/
  | clear
  /-- APPEND idx (R103). -/
  | append (idx : Index)
  /-- VALIDATE (R131). -/
  | validate
  /-- TRY idx (R132). -/
  | tryWord (idx : Index)
deriving DecidableEq, Repr

/-- The mapped registers, by the names of R35 and R88. -/
inductive Reg where
  /-- CMD, write-only (R36). -/
  | cmd
  /-- STATUS (R37). -/
  | status
  /-- CHECK (R38). -/
  | check
  /-- BITS0 .. BITS8 (R39). -/
  | bits (j : Fin 9)
  /-- DIGEST0 .. DIGEST7 (R40). -/
  | digest (j : Fin 8)
deriving DecidableEq, Repr

/-- A host access `MemRead(off, n)` or `MemWrite(off, n, v)` (R10). The bus itself only carries `n = 4` (R54). -/
inductive Txn where
  /-- A read of `bytes` bytes at offset `off` (R55). -/
  | read (off : Offset) (bytes : Nat)
  /-- A write of `bytes` bytes at offset `off` with data `data` (R56). -/
  | write (off : Offset) (bytes : Nat) (data : Word)
deriving DecidableEq, Repr

/-- What can happen to the block next. The interleaving of host, engine and reset is the environment's (R11, R61,
R210), so a run is driven by a list of these. -/
inductive Event where
  /-- The host presents a transaction while `rst_n = 1` (R52). -/
  | host (t : Txn)
  /-- The engine has its turn: it completes if `BUSY = 1` and has nothing to do otherwise (R133). -/
  | engine
  /-- A rising clock edge with `rst_n = 0`, with the transaction presented in that cycle, if any (R230, R232). -/
  | reset (presented : Option Txn)
  /-- A clock cycle with `rst_n = 1` and `bus_sel = 0` (R52). -/
  | idle
  /-- A second bus master drives the port: outside the BCV (R70, U6). -/
  | otherMaster (t : Txn)
  /-- Power is removed: no model state exists before the next reset (R219, R233, U1). -/
  | powerLoss
deriving DecidableEq, Repr

end Sys2Proof
end

