-- ==== Sys2Proof/WellFormed.lean ====
section
/-! DEFINITION. Which commands, accesses, events and command words are well formed. -/

namespace Sys2Proof

/-- Every command is well formed: an 11-bit index is always in range (R82, S1), so the type leaves nothing to check. -/
def Instr.wellFormed : Instr → Bool
  | .nop => true
  | .clear => true
  | .append _ => true
  | .validate => true
  | .tryWord _ => true

/-- The only access width is 32 bits, that is 4 bytes (R54, U5). -/
def Txn.wellFormed : Txn → Bool
  | .read _ bytes => bytes == 4
  | .write _ bytes _ => bytes == 4

/-- An event of the one host, the engine, the clock or the reset input. A second master (U6) and a loss of
power (U1) are what the spec refuses to describe. A transaction presented during reset is never performed (R232),
so nothing is asked of it. -/
def Event.wellFormed : Event → Bool
  | .host t => t.wellFormed
  | .engine => true
  | .reset _ => true
  | .idle => true
  | .otherMaster _ => false
  | .powerLoss => false

/-- A row of the opcode map R83: a command word `v` fits it when `v &&& mask = pattern`. -/
structure OpcodeRow where
  /-- The bits that the row fixes. -/
  mask : Word
  /-- Their values. -/
  pattern : Word
deriving DecidableEq, Repr

/-- The five rows of R83, in its order: NOP, CLEAR, APPEND, VALIDATE, TRY. -/
def opcodeRows : List OpcodeRow :=
  [⟨0xFFFFFFFF, 0x00000000⟩, ⟨0xFFFFFFFF, 0x00000001⟩, ⟨0xF800FFFF, 0x00000002⟩,
   ⟨0xFFFFFFFF, 0x00000003⟩, ⟨0xF800FFFF, 0x00000004⟩]

/-- `v` is a word of the row. -/
def OpcodeRow.fits (r : OpcodeRow) (v : Word) : Bool := v &&& r.mask == r.pattern

/-- The legal command words: those that fit a row of R83. -/
def legalWord (v : Word) : Bool := opcodeRows.any fun r => r.fits v

end Sys2Proof
end

