-- ==== Sys2Proof/Decode.lean ====
section
/-! DEFINITION. The command decoder (30_encoding.md R84), total on all 2^32 words, and the encoder (R83). -/

namespace Sys2Proof

/-- Why a word is illegal: the three kinds of R85. -/
inductive Illegal where
  /-- RSV0 or RSV1 is not zero. -/
  | reservedBits
  /-- OP is 0x5 .. 0xF. -/
  | reservedOpcode
  /-- NOP, CLEAR or VALIDATE with a non-zero IDX. -/
  | nonzeroIndex
deriving DecidableEq, Repr

/-- What R84 answers for a word. -/
inductive Decoded where
  /-- A legal command. -/
  | instr (i : Instr)
  /-- ILLEGAL, with the kind of R85 it is. -/
  | illegal (why : Illegal)
deriving DecidableEq, Repr

/-- OP, bits 3:0 (R81). -/
def opField (v : Word) : BitVec 4 := v.extractLsb' 0 4

/-- RSV0, bits 15:4 (R81). -/
def rsv0Field (v : Word) : BitVec 12 := v.extractLsb' 4 12

/-- IDX, bits 26:16, used unchanged (R81, R82). -/
def idxField (v : Word) : Index := v.extractLsb' 16 11

/-- RSV1, bits 31:27 (R81). -/
def rsv1Field (v : Word) : BitVec 5 := v.extractLsb' 27 5

/-- The decode function of R84, in its order. -/
def decode (v : Word) : Decoded :=
  if rsv1Field v ≠ 0 ∨ rsv0Field v ≠ 0 then .illegal .reservedBits
  else if opField v = 0x0 ∧ idxField v = 0 then .instr .nop
  else if opField v = 0x1 ∧ idxField v = 0 then .instr .clear
  else if opField v = 0x2 then .instr (.append (idxField v))
  else if opField v = 0x3 ∧ idxField v = 0 then .instr .validate
  else if opField v = 0x4 then .instr (.tryWord (idxField v))
  else if opField v < 0x5 then .illegal .nonzeroIndex
  else .illegal .reservedOpcode

/-- `enc(OP, idx) = (zext_32(idx) << 16) | OP` (R83). -/
def enc (op : BitVec 4) (idx : Index) : Word := (idx.setWidth 32 <<< 16) ||| op.setWidth 32

/-- The command word of a command (R83). -/
def encode : Instr → Word
  | .nop => enc 0x0 0
  | .clear => enc 0x1 0
  | .append idx => enc 0x2 idx
  | .validate => enc 0x3 0
  | .tryWord idx => enc 0x4 idx

/-- The host's question about a row of the opcode table: the command word arrives whole on `bus_wdata`, bit `n` on
line `n` (R58, R80), so the numbering of the table is the numbering of R81. -/
def decodeTableWord (nbits w : Nat) : Option Instr :=
  match decode (BitVec.ofNat 32 (w % 2 ^ nbits)) with
  | .instr i => some i
  | .illegal _ => none

end Sys2Proof
end

