-- ==== Sys2Proof/Machine/State.lean ====
section
/-! DEFINITION. The state of one BCV (10_state.md R20 to R32), what the model adds to drive and observe it, and reset. -/

namespace Sys2Proof.Machine

/-- The command error codes of 60_exceptions.md R201. Codes 4..7 are never produced (U8), so they have no name. -/
inductive ErrCode where
  /-- 0 NONE. -/
  | noError
  /-- 1 WORD_COUNT (R202). -/
  | wordCount
  /-- 2 FULL (R203). -/
  | full
  /-- 3 ILLEGAL (R204). -/
  | illegal
deriving DecidableEq, Repr

/-- DIG[0..7], the eight words of a SHA-256 digest; `h0` is DIG[0], the most significant (R31). -/
structure Digest where
  h0 : Word
  h1 : Word
  h2 : Word
  h3 : Word
  h4 : Word
  h5 : Word
  h6 : Word
  h7 : Word
deriving DecidableEq, Repr

/-- `PEND = (PL, PM)` of a running VALIDATE or TRY (R32). -/
structure Pending where
  /-- PL, the mnemonic length being evaluated. -/
  PL : BitVec 5
  /-- PM, the packed value of the PL indices: the low 11·PL bits (the rest are zero, R43 item 8). -/
  PM : BitString
deriving DecidableEq, Repr

/-- The output ports of the bus (R51). -/
structure BusOut where
  /-- `bus_rdata`. -/
  rdata : Word
  /-- `bus_err`. -/
  err : Bool
deriving DecidableEq, Repr

/-- The state of the machine. The fields in capitals are the BCV's whole state, exactly R21 to R32 (R20); the three
fields in small letters are the model's own: the schedule that drives the block, the output ports as last driven,
and the counter of the free values. -/
structure State where
  /-- BS[263:0] (R21). -/
  BS : BitString
  /-- COUNT[4:0] (R22). -/
  COUNT : BitVec 5
  /-- BUSY (R23). -/
  BUSY : Bool
  /-- DONE (R24). -/
  DONE : Bool
  /-- VALID (R25). -/
  VALID : Bool
  /-- OVR, sticky (R26). -/
  OVR : Bool
  /-- ERR[2:0] (R27). -/
  ERR : ErrCode
  /-- CSUM[7:0] (R28). -/
  CSUM : BitVec 8
  /-- RCVD[7:0] (R29). -/
  RCVD : BitVec 8
  /-- CSLEN[3:0] (R30). -/
  CSLEN : BitVec 4
  /-- DIG[0..7] (R31). -/
  DIG : Digest
  /-- PEND, hidden (R32). -/
  PEND : Option Pending
  /-- MODEL'S OWN: what the environment does next, first event first (R11; log entry 2). -/
  inputs : List Event
  /-- MODEL'S OWN: the ports bus_rdata and bus_err as driven in the last bus cycle (R51, R52; log entry 3). -/
  bus : BusOut
  /-- MODEL'S OWN: how many free values have been used (log entry 1). -/
  freeIndex : Nat
deriving DecidableEq, Repr

/-- No step of the BCV ends in a fault: every failure the spec names is a defined next state (R12, R220). The type is
closed and empty, so that this holds by construction. -/
inductive Fault where
deriving DecidableEq, Repr

/-- What a step refuses by name: only what the spec itself refuses to describe. -/
inductive Refusal where
  /-- Raised by an arm of `exec` whose command has no meaning yet (none is left). Safe. -/
  | notModelled (mnemonic : String)
  /-- Raised by a host access of `bytes` bytes other than 4: outside the BCV, refused by name (R54, U5). Safe. -/
  | accessWidth (bytes : Nat)
  /-- Raised when a second bus master drives the port: not specified (R70, U6). Safe. -/
  | otherMaster
  /-- Raised by a loss of power: the model has no pre-reset state (R219, R233, U1). Safe. -/
  | unresetBlock
deriving DecidableEq, Repr

/-- DIG after reset: eight zero words (R42). -/
def Digest.zero : Digest := ⟨0, 0, 0, 0, 0, 0, 0, 0⟩

/-- The machine right after reset (R42, R231). The model's own fields: nothing is scheduled, the ports are those of
a cycle without a transaction (R52), and no free value has been used (DESIGN CHOICE, log entries 1 to 3). -/
def State.reset : State where
  BS := 0
  COUNT := 0
  BUSY := false
  DONE := false
  VALID := false
  OVR := false
  ERR := .noError
  CSUM := 0
  RCVD := 0
  CSLEN := 0
  DIG := .zero
  PEND := none
  inputs := []
  bus := ⟨0, false⟩
  freeIndex := 0

end Sys2Proof.Machine
end

