-- ==== Sys2Proof/Machine/Operands.lean ====
section
/-! DEFINITION. Word slots, packed values and the length table: how 11-bit indices lie in BS (10_state.md R21, R39) and
how a packed value splits into entropy and checksum bits (41_checksum_validate.md R134, 00_scope.md R6). -/

namespace Sys2Proof.Machine

/-! ### Lengths (R6, R130) -/

/-- MAX_WORDS (R5). -/
def maxWords : Nat := 24

/-- LSET, the supported mnemonic lengths (R5). -/
def lset : List Nat := [12, 15, 18, 21, 24]

/-- `Lok(L) = (L ∈ LSET)` (R130). -/
def lok (L : Nat) : Bool := lset.contains L

/-- CS = L/3, the number of checksum bits (R6). -/
def csOf (L : Nat) : Nat := L / 3

/-- ENT = 32·CS, the number of entropy bits (R6). -/
def entOf (L : Nat) : Nat := 32 * csOf L

/-! ### Word slots of BS (R21) -/

/-- The lowest bit of word slot `k`: slot `k` is `BS[263−11k : 253−11k]` (R21). -/
def slotLow (k : Nat) : Nat := 253 - 11 * k

/-- The word in slot `k` (R21, R104). -/
def slotRead (bs : BitString) (k : Nat) : Index := bs.extractLsb' (slotLow k) 11

/-- `BS[263−11k : 253−11k] <- idx` (R103): the other bits keep their values. -/
def slotWrite (bs : BitString) (k : Nat) (idx : Index) : BitString :=
  (bs &&& ~~~(0x7FF#264 <<< slotLow k)) ||| (idx.setWidth 264 <<< slotLow k)

/-! ### Packed values (R8, R131, R132) -/

/-- `pack(i_0 .. i_{n−1}) = {i_0, i_1, ..., i_{n−1}}`, the first index in the highest bits (R8). For n ≤ 24 the
value's 11·n bits fit the width. -/
def pack (is : List Index) : BitString :=
  is.foldl (fun acc i => (acc <<< 11) ||| i.setWidth 264) 0

/-- `BS[263 : 264 − 11·n]`, the packed value of the first `n` words (R131). -/
def firstWords (bs : BitString) (n : Nat) : BitString := bs >>> (264 - 11 * n)

/-- `{ BS[263 : 264 − 11·n], idx }`, the first `n` words and then a candidate (R132). -/
def withCandidate (bs : BitString) (n : Nat) (idx : Index) : BitString :=
  (firstWords bs n <<< 11) ||| idx.setWidth 264

/-! ### The split (R134) -/

/-- E, the first ENT stream bits of the packed value: `M >> CS` at width ENT (R134). -/
def entropy (L : Nat) (M : BitString) : BitVec (entOf L) := M.extractLsb' (csOf L) (entOf L)

/-- R, the last CS stream bits of the packed value: `M mod 2^CS` at width CS (R134). -/
def received (L : Nat) (M : BitString) : BitVec (csOf L) := M.setWidth (csOf L)

/-- `bytes_ENT(E)`, byte 0 first, each byte MSB first (R134, R59). -/
def entropyBytes (ent : Nat) (e : BitVec ent) : List (BitVec 8) :=
  (List.range (ent / 8)).map fun b => e.extractLsb' (ent - 8 - 8 * b) 8

/-! ### The windows BITSj (R39) -/

/-- `BITSj = BS[263−32j : 232−32j]` for j = 0..7, and `BITS8 = {BS[7:0], 24'b0}` (R39). -/
def bitsWord (bs : BitString) (j : Fin 9) : Word :=
  if j.val < 8 then bs.extractLsb' (232 - 32 * j.val) 32 else bs.extractLsb' 0 8 ++ 0#24

end Sys2Proof.Machine
end

