-- ==== Sys2Proof/Machine/Flags.lean ====
section
/-! DEFINITION. The registers built from flags and results: STATUS (10_state.md R37), CHECK (R38), DIGESTj (R40), and the
validity comparator (41_checksum_validate.md R135). -/

namespace Sys2Proof.Machine

/-- The number of an error code, STATUS.ERR[2:0] (R201). -/
def ErrCode.code : ErrCode → BitVec 3
  | .noError => 0
  | .wordCount => 1
  | .full => 2
  | .illegal => 3

/-- `STATUS = {19'b0, COUNT, 1'b0, ERR, OVR, VALID, DONE, BUSY}` (R37). -/
def statusWord (s : State) : Word :=
  0#19 ++ s.COUNT ++ 0#1 ++ s.ERR.code ++ BitVec.ofBool s.OVR ++ BitVec.ofBool s.VALID
    ++ BitVec.ofBool s.DONE ++ BitVec.ofBool s.BUSY

/-- `CHECK = {12'b0, CSLEN, RCVD, CSUM}` (R38). -/
def checkWord (s : State) : Word := 0#12 ++ s.CSLEN ++ s.RCVD ++ s.CSUM

/-- DIG[j] (R31, R40). -/
def Digest.word (d : Digest) (j : Fin 8) : Word :=
  match j with
  | 0 => d.h0
  | 1 => d.h1
  | 2 => d.h2
  | 3 => d.h3
  | 4 => d.h4
  | 5 => d.h5
  | 6 => d.h6
  | 7 => d.h7

/-- D, the 256-bit digest value `{Hout_0, ..., Hout_7}` (R169). -/
def Digest.value (d : Digest) : BitVec 256 :=
  d.h0 ++ d.h1 ++ d.h2 ++ d.h3 ++ d.h4 ++ d.h5 ++ d.h6 ++ d.h7

/-- `C = D[255 : 256 − CS]`, the first CS bits of the digest (R170). -/
def Digest.checksum (d : Digest) (cs : Nat) : BitVec cs := d.value.extractLsb' (256 - cs) cs

/-- The validity comparator: all CS bits are equal, and no other bit takes part (R135). -/
def comparator {cs : Nat} (c r : BitVec cs) : Bool := c == r

end Sys2Proof.Machine
end

