-- ==== Sys2Proof/Machine/Ops.lean ====
section
/-! DEFINITION. The shared operations: command acceptance and overrun (40_bitstring_builder.md R100), raising a command
error (60_exceptions.md R200), the register map (10_state.md R35) with its reads and refusals (20_memory.md R55, R56),
the bus ports (R51, R52) and the reset edge (70_reset_and_hazards.md R231). -/

namespace Sys2Proof.Machine

/-! ### Commands -/

/-- The clearing that every accepted command begins with: `DONE <- 0; VALID <- 0; ERR <- 0` (R100). -/
def accept (s : State) : State := { s with DONE := false, VALID := false, ERR := .noError }

/-- A CMD write while BUSY = 1: the command is dropped and only OVR changes (R100, R206). -/
def overrun (s : State) : State := { s with OVR := true }

/-- `DONE <- 1`: the command completes within its own write (R24, R62). -/
def finish (s : State) : State := { s with DONE := true }

/-- `raise CmdError(code)`: `ERR <- code; DONE <- 1`, and nothing else (R10, R200). The BCV has no trap entry: nothing is
saved and nothing vectors anywhere (R212). -/
def raiseCmdError (code : ErrCode) (s : State) : State := { s with ERR := code, DONE := true }

/-- `Command(v)`: dropped while BUSY = 1, otherwise accepted with the effect `body` (R100, R208). All writes take effect
together (R10), so `body` acts on the state in which DONE, VALID and ERR are already cleared. -/
def command (body : State → State) (s : State) : State :=
  if s.BUSY then overrun s else body (accept s)

/-- The start of a hash: `PEND <- (L, M); BUSY <- 1` (R131, R132). DONE stays 0. -/
def startHash (L : Nat) (M : BitString) (s : State) : State :=
  { s with PEND := some ⟨BitVec.ofNat 5 L, M⟩, BUSY := true }

/-! ### The register map -/

/-- The offset of a register (R35). -/
def regOffset : Reg → Offset
  | .cmd => 0x00
  | .status => 0x04
  | .check => 0x08
  | .bits j => BitVec.ofNat 8 (0x10 + 4 * j.val)
  | .digest j => BitVec.ofNat 8 (0x40 + 4 * j.val)

/-- Every mapped register (R35). -/
def mappedRegs : List Reg :=
  [.cmd, .status, .check] ++ (List.finRange 9).map .bits ++ (List.finRange 8).map .digest

/-- The register at an offset; none at a reserved or misaligned offset (R35, R41). -/
def regAt (off : Offset) : Option Reg := mappedRegs.find? fun r => regOffset r == off

/-- `bus_addr[1:0] = 0` (R53). -/
def aligned (off : Offset) : Bool := off.extractLsb' 0 2 == 0

/-- The causes of a bus error (R207), in the order of R209. -/
inductive BusError where
  /-- `bus_addr[1:0] ≠ 0`. -/
  | misaligned
  /-- A reserved offset. -/
  | unmapped
  /-- A write to STATUS, CHECK, BITSj or DIGESTj. -/
  | readOnly
deriving DecidableEq, Repr

/-- The value a register reads as. CMD reads as 0 (R36 to R40). -/
def regValue (s : State) : Reg → Word
  | .cmd => 0
  | .status => statusWord s
  | .check => checkWord s
  | .bits j => bitsWord s.BS j
  | .digest j => s.DIG.word j

/-- Why a read at an offset is refused, if it is (R55, R209). -/
def readError (off : Offset) : Option BusError :=
  if !aligned off then some .misaligned
  else match regAt off with
    | none => some .unmapped
    | some _ => none

/-- Why a write at an offset is refused, if it is (R56, R209). -/
def writeError (off : Offset) : Option BusError :=
  if !aligned off then some .misaligned
  else match regAt off with
    | none => some .unmapped
    | some .cmd => none
    | some _ => some .readOnly

/-! ### The bus ports -/

/-- Drive the ports. -/
def respond (out : BusOut) (s : State) : State := { s with bus := out }

/-- The response to a refused transaction: `bus_err = 1`, `bus_rdata = 0`, no other effect (R10, R207). -/
def busRefused : BusOut := ⟨0, true⟩

/-- The ports when no transaction is performed: `bus_rdata = 0`, `bus_err = 0` (R52, R232). -/
def busQuiet : BusOut := ⟨0, false⟩

/-- What `MemRead(off, 4)` returns (R55). -/
def readResponse (off : Offset) (s : State) : BusOut :=
  match readError off with
  | some _ => busRefused
  | none =>
    match regAt off with
    | some r => ⟨regValue s r, false⟩
    | none => busRefused

/-- The response to a CMD write: `bus_err = 0` whatever becomes of the command (R56). `bus_rdata` is a free value
(log entry 1). -/
def ackWrite (s : State) : State :=
  { s with bus := ⟨Config.freeWriteData s.freeIndex, false⟩, freeIndex := s.freeIndex + 1 }

/-! ### Reset -/

/-- A rising edge with `rst_n = 0`: every state element takes its reset value, a running hash is abandoned, and a
transaction presented in that cycle is not performed and answers (0, 0) (R230 to R232). The schedule and the
free-value counter are the model's own and go on. -/
def resetEdge (s : State) : State :=
  { State.reset with inputs := s.inputs, bus := busQuiet, freeIndex := s.freeIndex }

end Sys2Proof.Machine
end

