-- ==== Sys2Proof/Machine/Builder.lean ====
section
/-! DEFINITION. The builder commands NOP, CLEAR and APPEND and the illegal word (40_bitstring_builder.md R101 to R105). -/

namespace Sys2Proof.Machine

/-- NOP: `DONE <- 1` (R101). -/
def execNop (s : State) : Host.Outcome State Fault Refusal := .next (command finish s)

/-- What CLEAR writes beyond acceptance: BS, COUNT, OVR and the results to 0 (R102). -/
def clearAll (s : State) : State :=
  { s with BS := 0, COUNT := 0, OVR := false, CSUM := 0, RCVD := 0, CSLEN := 0, DIG := .zero }

/-- CLEAR: every state element takes its reset value, except DONE = 1 (R102). -/
def execClear (s : State) : Host.Outcome State Fault Refusal :=
  .next (command (fun t => finish (clearAll t)) s)

/-- The next 11-bit slot takes the index and COUNT advances (R103). -/
def appendWord (idx : Index) (s : State) : State :=
  { s with BS := slotWrite s.BS s.COUNT.toNat idx, COUNT := s.COUNT + 1 }

/-- APPEND idx: FULL when COUNT = 24, otherwise the word is appended (R103, R203). -/
def execAppend (idx : Index) (s : State) : Host.Outcome State Fault Refusal :=
  .next (command
    (fun t => if t.COUNT = 24 then raiseCmdError .full t else finish (appendWord idx t)) s)

/-- A command word that decodes to ILLEGAL: `raise CmdError(ILLEGAL)` (R105, R204). -/
def execIllegal (s : State) : Host.Outcome State Fault Refusal :=
  .next (command (raiseCmdError .illegal) s)

end Sys2Proof.Machine
end

