-- ==== Sys2Proof/Machine/Sha256.lean ====
section
/-! DEFINITION. The hash wrapper: SHA-256 of one block, for messages of ENT ≤ 256 bits (42_sha256_wrapper.md R160 to R171). -/

namespace Sys2Proof.Machine

/-! ### Word functions (R165) -/

/-- Rotate right by a fixed amount, 0 < n < 32. -/
def rotr (x : Word) (n : Nat) : Word := (x >>> n) ||| (x <<< (32 - n))

/-- Shift right. -/
def shr (x : Word) (n : Nat) : Word := x >>> n

/-- Ch. -/
def ch (x y z : Word) : Word := (x &&& y) ^^^ (~~~x &&& z)

/-- Maj. -/
def maj (x y z : Word) : Word := (x &&& y) ^^^ (x &&& z) ^^^ (y &&& z)

/-- Σ0. -/
def bigSigma0 (x : Word) : Word := rotr x 2 ^^^ rotr x 13 ^^^ rotr x 22

/-- Σ1. -/
def bigSigma1 (x : Word) : Word := rotr x 6 ^^^ rotr x 11 ^^^ rotr x 25

/-- σ0. -/
def smallSigma0 (x : Word) : Word := rotr x 7 ^^^ rotr x 18 ^^^ shr x 3

/-- σ1. -/
def smallSigma1 (x : Word) : Word := rotr x 17 ^^^ rotr x 19 ^^^ shr x 10

/-! ### Constants (R166, R167) -/

/-- K_0 .. K_63, row by row (R166). -/
def roundConstants : List Word :=
  [0x428a2f98, 0x71374491, 0xb5c0fbcf, 0xe9b5dba5, 0x3956c25b, 0x59f111f1, 0x923f82a4, 0xab1c5ed5] ++
  [0xd807aa98, 0x12835b01, 0x243185be, 0x550c7dc3, 0x72be5d74, 0x80deb1fe, 0x9bdc06a7, 0xc19bf174] ++
  [0xe49b69c1, 0xefbe4786, 0x0fc19dc6, 0x240ca1cc, 0x2de92c6f, 0x4a7484aa, 0x5cb0a9dc, 0x76f988da] ++
  [0x983e5152, 0xa831c66d, 0xb00327c8, 0xbf597fc7, 0xc6e00bf3, 0xd5a79147, 0x06ca6351, 0x14292967] ++
  [0x27b70a85, 0x2e1b2138, 0x4d2c6dfc, 0x53380d13, 0x650a7354, 0x766a0abb, 0x81c2c92e, 0x92722c85] ++
  [0xa2bfe8a1, 0xa81a664b, 0xc24b8b70, 0xc76c51a3, 0xd192e819, 0xd6990624, 0xf40e3585, 0x106aa070] ++
  [0x19a4c116, 0x1e376c08, 0x2748774c, 0x34b0bcb5, 0x391c0cb3, 0x4ed8aa4a, 0x5b9cca4f, 0x682e6ff3] ++
  [0x748f82ee, 0x78a5636f, 0x84c87814, 0x8cc70208, 0x90befffa, 0xa4506ceb, 0xbef9a3f7, 0xc67178f2]

/-- The initial hash value H0 .. H7 (R167). -/
def initialHash : Digest :=
  ⟨0x6a09e667, 0xbb67ae85, 0x3c6ef372, 0xa54ff53a, 0x510e527f, 0x9b05688c, 0x1f83d9ab, 0x5be0cd19⟩

/-! ### Padding and the block words (R161, R162, R164) -/

/-- The one padded block `P = (E << (512 − ENT)) | (1 << (511 − ENT)) | ENT` (R162). -/
def padBlock (ent : Nat) (e : BitVec ent) : BitVec 512 :=
  (e.setWidth 512 <<< (512 - ent)) ||| (1#512 <<< (511 - ent)) ||| BitVec.ofNat 512 ent

/-- `W_t = P[511 − 32t : 480 − 32t]` for t = 0..15 (R164). -/
def blockWord (P : BitVec 512) (t : Nat) : Word := P.extractLsb' (480 - 32 * t) 32

/-! ### Message schedule (R168) -/

/-- The next word of the schedule from the sixteen before it, `w` holding W_0 .. W_(t−1) in order (R168). -/
def nextWord (w : List Word) : Word :=
  let t := w.length
  smallSigma1 (w.getD (t - 2) 0) + w.getD (t - 7) 0 + smallSigma0 (w.getD (t - 15) 0) + w.getD (t - 16) 0

/-- Extend a schedule by `n` words. -/
def extendSchedule : Nat → List Word → List Word
  | 0, w => w
  | n + 1, w => extendSchedule n (w ++ [nextWord w])

/-- W_0 .. W_63 (R168). -/
def schedule (P : BitVec 512) : List Word := extendSchedule 48 ((List.range 16).map (blockWord P))

/-! ### Compression (R169) -/

/-- The working variables a .. h of R169. -/
structure Working where
  a : Word
  b : Word
  c : Word
  d : Word
  e : Word
  f : Word
  g : Word
  h : Word
deriving DecidableEq, Repr

/-- One round with the constant `k` and the schedule word `w` (R169). -/
def round (v : Working) (k w : Word) : Working :=
  let T1 := v.h + bigSigma1 v.e + ch v.e v.f v.g + k + w
  let T2 := bigSigma0 v.a + maj v.a v.b v.c
  ⟨T1 + T2, v.a, v.b, v.c, v.d + T1, v.e, v.f, v.g⟩

/-- The working variables before the first round (R169). -/
def Working.start : Working :=
  ⟨initialHash.h0, initialHash.h1, initialHash.h2, initialHash.h3,
   initialHash.h4, initialHash.h5, initialHash.h6, initialHash.h7⟩

/-- The 64 rounds over a schedule (R169). -/
def rounds (w : List Word) : Working :=
  (roundConstants.zip w).foldl (fun v kw => round v kw.1 kw.2) .start

/-- `Hout_i = H_i + (a, ..., h)_i` (R169). -/
def addInitial (v : Working) : Digest :=
  ⟨initialHash.h0 + v.a, initialHash.h1 + v.b, initialHash.h2 + v.c, initialHash.h3 + v.d,
   initialHash.h4 + v.e, initialHash.h5 + v.f, initialHash.h6 + v.g, initialHash.h7 + v.h⟩

/-- A digest function of an ENT-bit value, the parameter `sha256` of R173 (U14). -/
abbrev HashFn := (ent : Nat) → BitVec ent → Digest

/-- `HashWrap(E, ENT)`: the hash of exactly the entropy, no checksum bits, no length prefix and no salt (R160). -/
def hashWrap : HashFn := fun ent e => addInitial (rounds (schedule (padBlock ent e)))

end Sys2Proof.Machine
end

