-- ==== Sys2Proof/Machine/Validate.lean ====
section
/-! DEFINITION. The commands VALIDATE and TRY (41_checksum_validate.md R131, R132) and the engine's completion (R133 to R136). -/

namespace Sys2Proof.Machine

/-- The word-count check at acceptance: start hashing the packed value `M` of `L` words, or WORD_COUNT (R130, R202). -/
def hashOrWordCount (L : Nat) (M : BitString) (s : State) : State :=
  if lok L then startHash L M s else raiseCmdError .wordCount s

/-- VALIDATE: `L = COUNT`, `M = BS[263 : 264 − 11·L]` (R131). -/
def execValidate (s : State) : Host.Outcome State Fault Refusal :=
  .next (command (fun t => hashOrWordCount t.COUNT.toNat (firstWords t.BS t.COUNT.toNat) t) s)

/-- TRY idx: `L = COUNT + 1`, `M = { BS[263 : 264 − 11·COUNT], idx }`; BS and COUNT are not written (R132). -/
def execTry (idx : Index) (s : State) : Host.Outcome State Fault Refusal :=
  .next (command
    (fun t => hashOrWordCount (t.COUNT.toNat + 1) (withCandidate t.BS t.COUNT.toNat idx) t) s)

/-- `Complete()` for `PEND = (L, M)` and a digest function (R133, R173): split, hash, compare, and write the results,
all together. ERR, OVR, BS and COUNT are not written. -/
def completeWith (hash : HashFn) (p : Pending) (s : State) : State :=
  let L := p.PL.toNat
  let D := hash (entOf L) (entropy L p.PM)
  let C := D.checksum (csOf L)
  let R := received L p.PM
  { s with
    VALID := comparator C R, CSUM := C.setWidth 8, RCVD := R.setWidth 8,
    CSLEN := BitVec.ofNat 4 (csOf L), DIG := D, BUSY := false, DONE := true, PEND := none }

/-- The engine's turn for a digest function: completion, enabled iff BUSY = 1 (R11, R133). A turn when it is not enabled
changes nothing. -/
def engineTurnWith (hash : HashFn) (s : State) : State :=
  match s.BUSY, s.PEND with
  | true, some p => completeWith hash p s
  | _, _ => s

/-- The engine's turn with the digest function of the BCV, SHA-256 (R2, R160). -/
def engineTurn (s : State) : State := engineTurnWith hashWrap s

end Sys2Proof.Machine
end

