-- ==== Sys2Proof/Machine/Dispatch.lean ====
section
/-! DEFINITION. One arm per command: `Command(v)` of 40_bitstring_builder.md R100 for a legal word. -/

namespace Sys2Proof.Machine

/-- The effect of writing a command's word to CMD. -/
def exec (i : Instr) (s : State) : Host.Outcome State Fault Refusal :=
  match i with
  | .nop => Sys2Proof.Machine.execNop s
  | .clear => Sys2Proof.Machine.execClear s
  | .append idx => Sys2Proof.Machine.execAppend idx s
  | .validate => Sys2Proof.Machine.execValidate s
  | .tryWord idx => Sys2Proof.Machine.execTry idx s

end Sys2Proof.Machine
end

