-- ==== Sys2Proof/Machine/Bus.lean ====
section
/-! DEFINITION. Host transactions (20_memory.md R55, R56), the other events of 00_scope.md R11, and runs of events. -/

namespace Sys2Proof.Machine

/-- `Command(v)` for any word: the decoded command, or the illegal word's effect (R84, R100). Both drop the word
while BUSY = 1, so that nothing of it is seen then (R206). -/
def commandWord (v : Word) (s : State) : Host.Outcome State Fault Refusal :=
  match decode v with
  | .instr i => exec i s
  | .illegal _ => execIllegal s

/-- `MemRead(off, 4)`: the ports are driven and nothing else changes (R55, R57). -/
def memRead (off : Offset) (s : State) : Host.Outcome State Fault Refusal :=
  .next (respond (readResponse off s) s)

/-- `MemWrite(off, 4, v)`: a refused write has no effect, not even OVR; a CMD write delivers its word (R56). -/
def memWrite (off : Offset) (v : Word) (s : State) : Host.Outcome State Fault Refusal :=
  match writeError off with
  | some _ => .next (respond busRefused s)
  | none => commandWord v (ackWrite s)

/-- A host access. Any width but 4 bytes is outside the BCV and refused by name (R54, U5). -/
def hostTransaction (t : Txn) (s : State) : Host.Outcome State Fault Refusal :=
  match t with
  | .read off bytes => if bytes = 4 then memRead off s else .refused (.accessWidth bytes)
  | .write off bytes v => if bytes = 4 then memWrite off v s else .refused (.accessWidth bytes)

/-- One event on the block. -/
def takeEvent (e : Event) (s : State) : Host.Outcome State Fault Refusal :=
  match e with
  | .host t => hostTransaction t s
  | .engine => .next (engineTurn s)
  | .reset _ => .next (resetEdge s)
  | .idle => .next (respond busQuiet s)
  | .otherMaster _ => .refused .otherMaster
  | .powerLoss => .refused .unresetBlock

/-- What happens when the host has nothing more to do: an owed completion comes, because the engine is weakly fair
(R241, R242), and after it there are only cycles without a transaction (R52). -/
def unscheduled (s : State) : State :=
  if s.BUSY then engineTurn s else respond busQuiet s

/-- The events of a list, one after the other, stopping at a refusal. -/
def runEvents : List Event → State → Host.Outcome State Fault Refusal
  | [], s => .next s
  | e :: es, s =>
    match takeEvent e s with
    | .next t => runEvents es t
    | .fault r => .fault r
    | .refused r => .refused r

end Sys2Proof.Machine
end

