-- ==== Sys2Proof/Machine/Step.lean ====
section
/-! DEFINITION. One step: the next event of the schedule acts on the block (00_scope.md R11). -/

namespace Sys2Proof.Machine

/-- One step. -/
def step (s : State) : Host.Outcome State Fault Refusal :=
  match s.inputs with
  | [] => .next (unscheduled s)
  | e :: rest => takeEvent e { s with inputs := rest }

/-- The host presents the `nbits`-bit command word `w` next: a CMD write, put before the rest of the schedule. The BCV
fetches nothing (R65): a command is the data of the CMD write that carries it (log entry 4). -/
def State.withFetchWord (s : State) (nbits w : Nat) : State :=
  { s with inputs := .host (.write 0x00 4 (BitVec.ofNat 32 (w % 2 ^ nbits))) :: s.inputs }

end Sys2Proof.Machine
end

