-- ==== Sys2Proof/Machine/Pseudo.lean ====
section
/-! DEFINITION. The pseudo-instructions of 30_encoding.md R89 as schedules of events, and the host's SCAN loop. -/

namespace Sys2Proof.Machine

/-- A command line of R87: `MemWrite(0x00, 4, enc(...))`. -/
def cmdEvent (i : Instr) : Event := .host (.write 0x00 4 (encode i))

/-- `RD <reg>` (R88). -/
def readEvent (r : Reg) : Event := .host (.read (regOffset r) 4)

/-- `WAIT` (R89) in the interleaving where `polls` reads of STATUS still see BUSY = 1, then the engine has its turn, and
the next read sees BUSY = 0 and ends the loop. -/
def waitEvents (polls : Nat) : List Event :=
  List.replicate polls (readEvent .status) ++ [.engine, readEvent .status]

/-- `LOAD i0, ..., i(n−1)`: CLEAR and then an APPEND per index (R89). -/
def loadEvents (is : List Index) : List Event :=
  cmdEvent .clear :: is.map fun i => cmdEvent (.append i)

/-- `CHECKM i0, ..., i(L−1)`: LOAD, VALIDATE, WAIT and a read of STATUS (R89). -/
def checkmEvents (polls : Nat) (is : List Index) : List Event :=
  loadEvents is ++ cmdEvent .validate :: (waitEvents polls ++ [readEvent .status])

/-- `TRYW idx`: TRY, WAIT and a read of STATUS (R89). -/
def trywEvents (polls : Nat) (idx : Index) : List Event :=
  cmdEvent (.tryWord idx) :: (waitEvents polls ++ [readEvent .status])

/-- The host's loop of SCAN over the candidates of a list: what it records, and where it leaves the block. A word is
recorded iff bit 2 of the STATUS value read, VALID, is 1 (R89). -/
def scanFrom (polls : Nat) : List Index → State → List Index × State
  | [], s => ([], s)
  | w :: ws, s =>
    match runEvents (trywEvents polls w) s with
    | .next t =>
      let after := scanFrom polls ws t
      (if t.bus.rdata.getLsbD 2 then w :: after.1 else after.1, after.2)
    | _ => ([], s)

/-- Word indices 0 .. 2047 in WordList order. -/
def allIndices : List Index := (List.range 2048).map (BitVec.ofNat 11)

/-- `SCAN`: every candidate last word of the prefix in BS, in increasing order (R89, R141). -/
def scan (polls : Nat) (s : State) : List Index × State := scanFrom polls allIndices s

end Sys2Proof.Machine
end

