-- ==== Sys2Proof/Machine/Assembler.lean ====
section
/-! DEFINITION. The text of command lines (30_encoding.md R87), of host bus lines (R88) and of the pseudo-instructions (R89),
as lists of characters. The host's structured control flow of R88 is the host CPU's own code and has no text here. -/

namespace Sys2Proof.Machine

/-- A line of a host program. -/
inductive Line where
  /-- Nothing but space or a comment. -/
  | empty
  /-- A command (R87). -/
  | command (i : Instr)
  /-- `RD <reg> -> <name>` (R88). -/
  | rd (r : Reg) (name : List Char)
  /-- `WR <off>, <value>` (R88). -/
  | wr (off : Offset) (value : Word)
  /-- `WAIT` (R89). -/
  | wait
  /-- `LOAD i0, ...` (R89). -/
  | load (is : List Index)
  /-- `CHECKM i0, ...` (R89). -/
  | checkm (is : List Index)
  /-- `TRYW idx` (R89). -/
  | tryw (idx : Index)
  /-- `SCAN` (R89). -/
  | scan
deriving DecidableEq, Repr

/-- A comment starts with `;` (R87). -/
def stripComment (cs : List Char) : List Char := cs.takeWhile (· != ';')

/-- Space and the comma between operands. -/
def isSeparator (c : Char) : Bool := c == ' ' || c == '\t' || c == ','

/-- The words of a line. -/
def tokens (cs : List Char) : List (List Char) :=
  let flush (p : List Char × List (List Char)) := if p.1.isEmpty then p.2 else p.1 :: p.2
  flush (cs.foldr (fun c p => if isSeparator c then ([], flush p) else (c :: p.1, p.2)) ([], []))

/-- The value of a digit in a base of at most 16, in either case. -/
def digitValue (base : Nat) (c : Char) : Option Nat :=
  let v :=
    if '0' ≤ c ∧ c ≤ '9' then c.toNat - '0'.toNat
    else if 'a' ≤ c ∧ c ≤ 'f' then c.toNat - 'a'.toNat + 10
    else if 'A' ≤ c ∧ c ≤ 'F' then c.toNat - 'A'.toNat + 10
    else base
  if v < base then some v else none

/-- A non-empty string of digits. -/
def digits (base : Nat) (cs : List Char) : Option Nat :=
  if cs.isEmpty then none
  else cs.foldl (fun acc c => acc.bind fun n => (digitValue base c).map (n * base + ·)) (some 0)

/-- Decimal, or `0x`-prefixed hex (R87). -/
def number : List Char → Option Nat
  | '0' :: 'x' :: cs => digits 16 cs
  | cs => digits 10 cs

/-- An operand of `w` bits: a number that fits. -/
def operand (w : Nat) (cs : List Char) : Option (BitVec w) :=
  (number cs).bind fun n => if n < 2 ^ w then some (BitVec.ofNat w n) else none

/-- The operands of a list, all or none. -/
def indices : List (List Char) → Option (List Index)
  | [] => some []
  | t :: ts => (operand 11 t).bind fun i => (indices ts).map (i :: ·)

/-- The register names of R88, with the registers of R35. -/
def regNamed (cs : List Char) : Option Reg :=
  if cs = ['C', 'M', 'D'] then some .cmd
  else if cs = ['S', 'T', 'A', 'T', 'U', 'S'] then some .status
  else if cs = ['C', 'H', 'E', 'C', 'K'] then some .check
  else match cs with
    | ['B', 'I', 'T', 'S', c] =>
      (digitValue 10 c).bind fun n => if h : n < 9 then some (.bits ⟨n, h⟩) else none
    | ['D', 'I', 'G', 'E', 'S', 'T', c] =>
      (digitValue 10 c).bind fun n => if h : n < 8 then some (.digest ⟨n, h⟩) else none
    | _ => none

/-- The offset operand of WR: a number, or the register's name as in the example of R105. -/
def offsetOperand (cs : List Char) : Option Offset :=
  match regNamed cs with
  | some r => some (regOffset r)
  | none => operand 8 cs

/-- A mnemonic with its operands (R87 to R89). LOAD takes at most 24 indices (R89). -/
def lineOf (mnemonic : List Char) (args : List (List Char)) : Option Line :=
  if mnemonic = ['N', 'O', 'P'] then
    if args.isEmpty then some (.command .nop) else none
  else if mnemonic = ['C', 'L', 'E', 'A', 'R'] then
    if args.isEmpty then some (.command .clear) else none
  else if mnemonic = ['V', 'A', 'L', 'I', 'D', 'A', 'T', 'E'] then
    if args.isEmpty then some (.command .validate) else none
  else if mnemonic = ['W', 'A', 'I', 'T'] then
    if args.isEmpty then some .wait else none
  else if mnemonic = ['S', 'C', 'A', 'N'] then
    if args.isEmpty then some .scan else none
  else if mnemonic = ['A', 'P', 'P', 'E', 'N', 'D'] then
    match args with
    | [t] => (operand 11 t).map fun i => .command (.append i)
    | _ => none
  else if mnemonic = ['T', 'R', 'Y'] then
    match args with
    | [t] => (operand 11 t).map fun i => .command (.tryWord i)
    | _ => none
  else if mnemonic = ['T', 'R', 'Y', 'W'] then
    match args with
    | [t] => (operand 11 t).map .tryw
    | _ => none
  else if mnemonic = ['L', 'O', 'A', 'D'] then
    (indices args).bind fun is => if is.length ≤ maxWords then some (.load is) else none
  else if mnemonic = ['C', 'H', 'E', 'C', 'K', 'M'] then
    (indices args).bind fun is => if is.length ≤ maxWords then some (.checkm is) else none
  else if mnemonic = ['R', 'D'] then
    match args with
    | [r, ['-', '>'], name] => (regNamed r).map fun r => .rd r name
    | _ => none
  else if mnemonic = ['W', 'R'] then
    match args with
    | [off, value] => (offsetOperand off).bind fun o => (operand 32 value).map fun v => .wr o v
    | _ => none
  else none

/-- One line of text. Mnemonics are case-insensitive (R87). -/
def assembleLine (cs : List Char) : Option Line :=
  match tokens (stripComment cs) with
  | [] => some .empty
  | m :: args => lineOf (m.map Char.toUpper) args

/-- The events of a line whose course the host does not decide: all but SCAN, whose recording is `scan`. `polls` is
the number of STATUS reads of a WAIT that still see BUSY = 1. -/
def lineEvents (polls : Nat) : Line → List Event
  | .empty => []
  | .command i => [cmdEvent i]
  | .rd r _ => [readEvent r]
  | .wr off value => [.host (.write off 4 value)]
  | .wait => waitEvents polls
  | .load is => loadEvents is
  | .checkm is => checkmEvents polls is
  | .tryw idx => trywEvents polls idx
  | .scan => allIndices.flatMap (trywEvents polls)

end Sys2Proof.Machine
end

