-- ==== Sys2Proof/Machine/Clocked.lean ====
section
/-! DEFINITION. The block at its pins, clock edge by clock edge (20_memory.md R51, R52, 70_reset_and_hazards.md R230 to R232, R240,
60_exceptions.md R210): which events a clock cycle is, and the HASH_LATENCY countdown. The countdown is timing, not
architectural state (R20, R215, R240), so it stands beside State. HASH_LATENCY is an argument (R14). -/

namespace Sys2Proof.Machine

/-- The input pins of one clock cycle (R51). -/
structure Pins where
  /-- `rst_n`. -/
  rstN : Bool
  /-- `bus_sel`. -/
  busSel : Bool
  /-- `bus_we`. -/
  busWe : Bool
  /-- `bus_addr`. -/
  busAddr : Offset
  /-- `bus_wdata`. -/
  busWdata : Word
deriving DecidableEq, Repr

/-- The transaction the pins present, if any (R51, R52). -/
def Pins.txn (p : Pins) : Option Txn :=
  if p.busSel then
    if p.busWe then some (.write p.busAddr 4 p.busWdata) else some (.read p.busAddr 4)
  else none

/-- What the bus does in a cycle with `rst_n = 1` (R52). -/
def busEvent (p : Pins) : Event :=
  match p.txn with
  | some t => .host t
  | none => .idle

/-- The events of one clock cycle. Reset wins over everything (R230). Otherwise the host's transaction comes first and
sees the state before a completion due at the same edge (R52, R61, R210). -/
def cycleEvents (p : Pins) (completionDue : Bool) : List Event :=
  if p.rstN then busEvent p :: (if completionDue then [.engine] else [])
  else [.reset p.txn]

/-- A block with the cycles left until its owed completion. -/
structure Clocked where
  /-- The block. -/
  block : State
  /-- How many clock edges from now the running hash completes; none when no hash runs. -/
  left : Option Nat
deriving DecidableEq, Repr

/-- The countdown after an edge that took the block from `before` to `after` (R240): it starts at HASH_LATENCY at the
edge that accepts a hashing command, goes down by one at each further edge, and ends with BUSY. -/
def countdown (P : Params) (before after : State) (left : Option Nat) : Option Nat :=
  if after.BUSY then
    if before.BUSY then left.map (· - 1)
    else after.PEND.map fun p => P.hashLatency p.PL.toNat
  else none

/-- One rising clock edge. The ports of the cycle are `bus` of the block after it. A stopped clock is no edge: nothing
changes (R219). -/
def clockEdge (P : Params) (p : Pins) (c : Clocked) : Host.Outcome Clocked Fault Refusal :=
  match runEvents (cycleEvents p (c.left == some 1)) c.block with
  | .next t => .next ⟨t, countdown P c.block t c.left⟩
  | .fault r => .fault r
  | .refused r => .refused r

/-- Clock edges, one after the other. -/
def clockEdges (P : Params) : List Pins → Clocked → Host.Outcome Clocked Fault Refusal
  | [], c => .next c
  | p :: ps, c =>
    match clockEdge P p c with
    | .next d => clockEdges P ps d
    | .fault r => .fault r
    | .refused r => .refused r

end Sys2Proof.Machine
end

