-- ==== Sys2Proof/Machine/Platform.lean ====
section
/-! DEFINITION. Several BCV instances on a platform: each has a register space of its own and they share no state (20_memory.md R70,
60_exceptions.md R217, 00_scope.md R5). BCV_BASE and N_INSTANCES are arguments (R14). -/

namespace Sys2Proof.Machine

/-- The platform address of an offset of instance `k` (R35, R68). -/
def platformAddress (P : Params) (k : Nat) (off : Offset) : Nat := P.bcvBase k + off.toNat

/-- The offset of a platform address within the 256-byte register space of instance `k`, if it lies there (R35, R50). -/
def platformOffset (P : Params) (k addr : Nat) : Option Offset :=
  if P.bcvBase k ≤ addr ∧ addr < P.bcvBase k + 256 then
    some (BitVec.ofNat 8 (addr - P.bcvBase k))
  else none

/-- The instances of a platform. -/
structure Platform where
  /-- The state of each instance. -/
  instances : List State
deriving DecidableEq, Repr

/-- N_INSTANCES blocks right after reset. -/
def Platform.reset (P : Params) : Platform := ⟨List.replicate P.instances .reset⟩

/-- A step of instance `k`. -/
def Platform.stepAt (p : Platform) (k : Nat) : Host.Outcome Platform Fault Refusal :=
  match p.instances[k]? with
  | none => .next p
  | some s =>
    match step s with
    | .next t => .next ⟨p.instances.set k t⟩
    | .fault r => .fault r
    | .refused r => .refused r

end Sys2Proof.Machine
end

