-- ==== Sys2Proof/Safety.lean ====
section
/-! DEFINITION. What a reachable state satisfies (10_state.md R43), what the bit string means (40_bitstring_builder.md R104), when a
run has ended (70_reset_and_hazards.md R242), and when a STATUS value judges a mnemonic (R237). -/

namespace Sys2Proof

open Machine

/-- The invariants of R43. Item 7 (`ERR ∈ {0, 1, 2, 3}`) holds by the type of ERR (U8). -/
structure StateInv (s : State) : Prop where
  /-- Item 1. -/
  count_le : s.COUNT.toNat ≤ 24
  /-- Item 2: no bit is set after the last word. -/
  tail_zero : s.BS.toNat % 2 ^ (264 - 11 * s.COUNT.toNat) = 0
  /-- Item 3. -/
  busy_iff_pend : s.BUSY = true ↔ s.PEND ≠ none
  /-- Item 4. -/
  busy_flags : s.BUSY = true → s.DONE = false ∧ s.VALID = false ∧ s.ERR = .noError
  /-- Item 5. -/
  valid_flags : s.VALID = true →
    s.ERR = .noError ∧ s.DONE = true ∧ s.BUSY = false ∧ s.CSUM = s.RCVD ∧
      4 ≤ s.CSLEN.toNat ∧ s.CSLEN.toNat ≤ 8
  /-- Item 6, before any completed validation. -/
  no_results : s.CSLEN = 0 → s.CSUM = 0 ∧ s.RCVD = 0 ∧ s.DIG = .zero
  /-- Item 6, after one. -/
  results_fit : s.CSLEN ≠ 0 →
    s.CSUM.toNat < 2 ^ s.CSLEN.toNat ∧ s.RCVD.toNat < 2 ^ s.CSLEN.toNat
  /-- Item 8. -/
  pend_fits : ∀ p, s.PEND = some p → lok p.PL.toNat = true ∧ p.PM.toNat < 2 ^ (11 * p.PL.toNat)

/-- The bit string of a state is the packed word list `is` (R104). -/
structure Represents (is : List Index) (s : State) : Prop where
  /-- `COUNT = n`. -/
  count : s.COUNT.toNat = is.length
  /-- `BS = pack(i_0 .. i_{n−1}) << (264 − 11·n)`. -/
  bits : s.BS = pack is <<< (264 - 11 * is.length)

/-- What a command does to the source's word list: an accepted CLEAR empties it, an accepted APPEND extends it while it
has fewer than 24 words, and nothing else changes it (R104, R106). -/
def wordsAfterCommand (busy : Bool) (i : Instr) (is : List Index) : List Index :=
  if busy then is
  else match i with
    | .nop => is
    | .clear => []
    | .append idx => if is.length = maxWords then is else is ++ [idx]
    | .validate => is
    | .tryWord _ => is

/-- What an event does to the source's word list. Only a CMD write and a reset can change it (R45). -/
def wordsAfterEvent (busy : Bool) (e : Event) (is : List Index) : List Index :=
  match e with
  | .host (.write off bytes v) =>
    if off = 0 ∧ bytes = 4 then
      match decode v with
      | .instr i => wordsAfterCommand busy i is
      | .illegal _ => is
    else is
  | .host (.read _ _) => is
  | .engine => is
  | .reset _ => []
  | .idle => is
  | .otherMaster _ => is
  | .powerLoss => is

/-- What a step does to the source's word list. -/
def wordsAfterStep (s : State) (is : List Index) : List Index :=
  match s.inputs with
  | [] => is
  | e :: _ => wordsAfterEvent s.BUSY e is

/-- `n` steps, stopping at a refusal. -/
def runSteps : Nat → State → Host.Outcome State Fault Refusal
  | 0, s => .next s
  | n + 1, s =>
    match step s with
    | .next t => runSteps n t
    | .fault r => .fault r
    | .refused r => .refused r

/-- A host command sequence has ended: nothing is scheduled and no completion is owed (R242). -/
def Final (s : State) : Prop := s.inputs = [] ∧ s.BUSY = false

/-- The registers readable at the end of a run: STATUS, CHECK, BITS0..8, DIGEST0..7 (R242). -/
def finalObservation (s : State) : List Word := mappedRegs.tail.map (regValue s)

/-- A STATUS value, read after a VALIDATE or TRY that started with OVR = 0, judges the mnemonic: BUSY = 0, DONE = 1,
ERR = 0 and OVR = 0 (R237). -/
def judges (status : Word) : Bool :=
  !status.getLsbD 0 && status.getLsbD 1 && status.extractLsb' 4 3 == 0 && !status.getLsbD 3

/-- A state with a completed result agrees with another on VALID, CSUM, RCVD, CSLEN and DIG (R139, R143). -/
def sameResults (s t : State) : Prop :=
  t.VALID = s.VALID ∧ t.CSUM = s.CSUM ∧ t.RCVD = s.RCVD ∧ t.CSLEN = s.CSLEN ∧ t.DIG = s.DIG

/-- The verdict VALID that `TRY idx` reaches at its completion, for a digest function (R132, R133, R173). -/
def tryVerdict (hash : HashFn) (s : State) (idx : Index) : Bool :=
  match exec (.tryWord idx) s with
  | .next t => (engineTurnWith hash t).VALID
  | _ => false

/-- The expected checksum of a packed value of `L` words as a number, C = D[255 : 256 − CS] (R133, R170), for a digest
function. -/
def expectedChecksum (hash : HashFn) (L M : Nat) : Nat :=
  (hash (32 * (L / 3)) (BitVec.ofNat (32 * (L / 3)) (M / 2 ^ (L / 3)))).value.toNat / 2 ^ (256 - L / 3)

/-- The host writes the word `v` to CMD, and the block accepts it (R100). -/
def acceptsWord (v : Word) (s : State) : Prop :=
  s.BUSY = false ∧ ∃ rest, s.inputs = .host (.write 0x00 4 v) :: rest

/-- The next step is an edge with `rst_n = 0` (R230). -/
def takesReset (s : State) : Prop := ∃ presented rest, s.inputs = .reset presented :: rest

/-- The next step is an enabled engine completion: one that is scheduled, or one that is owed when nothing is (R133,
R241). -/
def takesCompletion (s : State) : Prop :=
  s.BUSY = true ∧ (s.inputs = [] ∨ ∃ rest, s.inputs = .engine :: rest)

/-- Events that a started hash outlives: everything well formed but a reset and the engine's own turn. -/
def hashOutlives (e : Event) : Bool :=
  match e with
  | .host t => t.wellFormed
  | .idle => true
  | .engine => false
  | .reset _ => false
  | .otherMaster _ => false
  | .powerLoss => false

/-- Events that change no register when no hash runs: reads, refused writes, idle cycles and the engine's turns (R57,
R60). -/
def leavesRegisters (e : Event) : Bool :=
  match e with
  | .host (.read _ bytes) => bytes == 4
  | .host (.write off bytes _) => bytes == 4 && off != 0
  | .engine => true
  | .idle => true
  | .reset _ => false
  | .otherMaster _ => false
  | .powerLoss => false

end Sys2Proof
end

