-- ==== Sys2Proof/Certificates/Slice0/Obligations.lean ====
section
/-! DEFINITION. The statements for the provers. Each docstring names the rules of spec/ it formalises. -/

open Sys2Proof Sys2Proof.Machine

/-! ### Encoding (30_encoding.md) -/

/-- Encoding and then decoding gives every well-formed command back, with every operand (R83, R84). -/
def Obligations.DecodeEncodeRoundTrip : Prop :=
  ∀ i : Instr, i.wellFormed = true → decode (encode i) = .instr i

/-- A word that decodes to a command is that command's encoding: no two words mean one command (R83, R84). -/
def Obligations.EncodeOfDecodedWord : Prop :=
  ∀ (v : Word) (i : Instr), decode v = .instr i → encode i = v

/-- The decoder agrees with the match and mask columns of the opcode map, row by row, every other word is illegal, and
the encoder is the formula of R83. -/
def Obligations.DecoderMatchesOpcodeMap : Prop :=
  (∀ v : Word,
    (decode v = .instr .nop ↔ v = 0x00000000) ∧
    (decode v = .instr .clear ↔ v = 0x00000001) ∧
    (∀ idx, decode v = .instr (.append idx) ↔
      v &&& 0xF800FFFF = 0x00000002 ∧ idx = v.extractLsb' 16 11) ∧
    (decode v = .instr .validate ↔ v = 0x00000003) ∧
    (∀ idx, decode v = .instr (.tryWord idx) ↔
      v &&& 0xF800FFFF = 0x00000004 ∧ idx = v.extractLsb' 16 11) ∧
    ((∃ why, decode v = .illegal why) ↔ legalWord v = false)) ∧
  (∀ idx : Index,
    (encode (.append idx)).toNat = idx.toNat * 2 ^ 16 + 2 ∧
    (encode (.tryWord idx)).toNat = idx.toNat * 2 ^ 16 + 4) ∧
  encode .nop = 0 ∧ encode .clear = 1 ∧ encode .validate = 3

/-- Exactly 3 + 2·2048 = 4099 of the 2^32 command words are legal (R84). -/
def Obligations.LegalWordCount : Prop :=
  Set.ncard {v : Word | ∃ i, decode v = .instr i} = 4099

/-- The three kinds of illegal word of R85, each exactly. -/
def Obligations.IllegalWordKinds : Prop :=
  ∀ v : Word,
    (decode v = .illegal .reservedBits ↔ v.extractLsb' 27 5 ≠ 0 ∨ v.extractLsb' 4 12 ≠ 0) ∧
    (decode v = .illegal .reservedOpcode ↔
      v.extractLsb' 27 5 = 0 ∧ v.extractLsb' 4 12 = 0 ∧ 5 ≤ (v.extractLsb' 0 4).toNat) ∧
    (decode v = .illegal .nonzeroIndex ↔
      v.extractLsb' 27 5 = 0 ∧ v.extractLsb' 4 12 = 0 ∧ v.extractLsb' 16 11 ≠ 0 ∧
        ((v.extractLsb' 0 4).toNat = 0 ∨ (v.extractLsb' 0 4).toNat = 1 ∨
          (v.extractLsb' 0 4).toNat = 3))

/-- A few words written out from R83 and from the table of illegal words of 95_test_vectors.md L2-7. -/
def Obligations.SampleWordsDecode : Prop :=
  decode 0x00000000 = .instr .nop ∧ decode 0x00000001 = .instr .clear ∧
  decode 0x07FF0002 = .instr (.append 2047) ∧ decode 0x00000003 = .instr .validate ∧
  decode 0x00660004 = .instr (.tryWord 102) ∧
  decode 0x00008002 = .illegal .reservedBits ∧ decode 0x80000004 = .illegal .reservedBits ∧
  decode 0x00010003 = .illegal .nonzeroIndex ∧ decode 0x0000000F = .illegal .reservedOpcode

/-- Every decimal and every `0x` operand of R87 assembles to its command, with the mnemonic in either case. -/
def Obligations.AssembledOperands : Prop :=
  ∀ idx : Index,
    assembleLine (['A', 'P', 'P', 'E', 'N', 'D', ' '] ++ Nat.toDigits 10 idx.toNat) =
      some (.command (.append idx)) ∧
    assembleLine (['t', 'r', 'y', ' ', '0', 'x'] ++ Nat.toDigits 16 idx.toNat) =
      some (.command (.tryWord idx))

/-! ### A step and its command (20_memory.md R56, 40_bitstring_builder.md R100) -/

/-- A step whose next event is a CMD write of a word that decodes to `i` is `exec i` of the state in which the write is
taken off the schedule and answered. `withFetchWord` schedules exactly that write. The answer's data is the free
value of log entry 1. -/
def Obligations.StepRunsDecodedCommand : Prop :=
  ∀ (s : State) (v : Word) (i : Instr) (rest : List Event), decode v = .instr i →
    (s.inputs = .host (.write 0x00 4 v) :: rest →
      step s = exec i { s with
        inputs := rest, bus := ⟨Config.freeWriteData s.freeIndex, false⟩,
        freeIndex := s.freeIndex + 1 }) ∧
    step (s.withFetchWord 32 v.toNat) = exec i { s with
      bus := ⟨Config.freeWriteData s.freeIndex, false⟩, freeIndex := s.freeIndex + 1 }

/-- An accepted word that decodes to ILLEGAL raises ILLEGAL and changes nothing but ERR, DONE and VALID (R204). The
schedule and the answer to the write are the model's own fields; the answer's data is the free value of log
entry 1. -/
def Obligations.IllegalWordRaisesIllegal : Prop :=
  ∀ (s : State) (v : Word) (why : Illegal) (rest : List Event), decode v = .illegal why →
    s.BUSY = false → s.inputs = .host (.write 0x00 4 v) :: rest →
    step s = .next { s with
      ERR := .illegal, DONE := true, VALID := false,
      inputs := rest, bus := ⟨Config.freeWriteData s.freeIndex, false⟩,
      freeIndex := s.freeIndex + 1 }

/-- A CMD write while BUSY = 1, of whatever word, is dropped: OVR is set, nothing else of the BCV changes, and the write
answers `bus_err = 0` (the answer's data is the free value of log entry 1). OVR is set by nothing else, and is cleared
by reset and an accepted CLEAR and by nothing else (R26, R206). -/
def Obligations.OverrunIsSticky : Prop :=
  ∀ s t : State, step s = .next t →
    (∀ v rest, s.BUSY = true → s.inputs = .host (.write 0x00 4 v) :: rest →
      t = { s with
        OVR := true, inputs := rest, bus := ⟨Config.freeWriteData s.freeIndex, false⟩,
        freeIndex := s.freeIndex + 1 }) ∧
    (takesReset s ∨ acceptsWord 0x00000001 s → t.OVR = false) ∧
    (t.OVR ≠ s.OVR →
      (t.OVR = true ∧ s.BUSY = true ∧ ∃ v rest, s.inputs = .host (.write 0x00 4 v) :: rest) ∨
      (t.OVR = false ∧ (takesReset s ∨ acceptsWord 0x00000001 s)))

/-! ### The commands (R101 to R103, R131, R132) -/

/-- NOP: only DONE = 1, VALID = 0 and ERR = 0; its encoding, and that OP 0 with any other bit set is ILLEGAL; dropped
while BUSY = 1 (R101). -/
def Obligations.NopMeaning : Prop :=
  (∀ v : Word, decode v = .instr .nop ↔ v = 0x00000000) ∧
  (∀ v : Word, v.extractLsb' 0 4 = 0 → v ≠ 0x00000000 → ∃ why, decode v = .illegal why) ∧
  ∀ s : State,
    (s.BUSY = false →
      exec .nop s = .next { s with DONE := true, VALID := false, ERR := .noError }) ∧
    (s.BUSY = true → exec .nop s = .next { s with OVR := true })

/-- CLEAR: every state element takes its reset value, except DONE = 1; its encoding; dropped while BUSY = 1; no other
command clears OVR (R102). -/
def Obligations.ClearMeaning : Prop :=
  (∀ v : Word, decode v = .instr .clear ↔ v = 0x00000001) ∧
  (∀ (i : Instr) (s t : State), exec i s = .next t → s.OVR = true → t.OVR = false → i = .clear) ∧
  ∀ s : State,
    (s.BUSY = false →
      exec .clear s = .next { s with
        BS := 0, COUNT := 0, OVR := false, CSUM := 0, RCVD := 0, CSLEN := 0,
        DIG := ⟨0, 0, 0, 0, 0, 0, 0, 0⟩, ERR := .noError, VALID := false, DONE := true }) ∧
    (s.BUSY = false → StateInv s →
      exec .clear s = .next { State.reset with
        DONE := true, inputs := s.inputs, bus := s.bus, freeIndex := s.freeIndex }) ∧
    (s.BUSY = true → exec .clear s = .next { s with OVR := true })

/-- APPEND idx: the word lands in slot COUNT, bit for bit, no other bit of BS changes, COUNT advances; FULL at
COUNT = 24; its encoding; dropped while BUSY = 1 (R103). COUNT is at most 24 in every reachable state (R43). -/
def Obligations.AppendMeaning : Prop :=
  (∀ (v : Word) (idx : Index), decode v = .instr (.append idx) ↔
    v &&& 0xF800FFFF = 0x00000002 ∧ idx = v.extractLsb' 16 11) ∧
  ∀ (s : State) (idx : Index),
    (s.BUSY = false → s.COUNT.toNat < 24 → ∃ b : BitString,
      exec (.append idx) s = .next { s with
        BS := b, COUNT := s.COUNT + 1, DONE := true, VALID := false, ERR := .noError } ∧
      (∀ n < 11, b.getLsbD (253 - 11 * s.COUNT.toNat + n) = idx.getLsbD n) ∧
      (∀ n, n < 253 - 11 * s.COUNT.toNat ∨ 263 - 11 * s.COUNT.toNat < n →
        b.getLsbD n = s.BS.getLsbD n)) ∧
    (s.BUSY = false → s.COUNT = 24 →
      exec (.append idx) s = .next { s with DONE := true, VALID := false, ERR := .full }) ∧
    (s.BUSY = true → exec (.append idx) s = .next { s with OVR := true })

/-- VALIDATE: for COUNT in LSET it starts the hash of the packed value of the COUNT words, otherwise WORD_COUNT and no
result changes; its encoding; dropped while BUSY = 1 (R131). -/
def Obligations.ValidateMeaning : Prop :=
  (∀ v : Word, decode v = .instr .validate ↔ v = 0x00000003) ∧
  ∀ s : State,
    (s.BUSY = false → s.COUNT.toNat ∈ [12, 15, 18, 21, 24] → ∃ M : BitString,
      exec .validate s = .next { s with
        PEND := some ⟨s.COUNT, M⟩, BUSY := true, DONE := false, VALID := false,
        ERR := .noError } ∧
      M.toNat = s.BS.toNat / 2 ^ (264 - 11 * s.COUNT.toNat)) ∧
    (s.BUSY = false → s.COUNT.toNat ∉ [12, 15, 18, 21, 24] →
      exec .validate s = .next { s with DONE := true, VALID := false, ERR := .wordCount }) ∧
    (s.BUSY = true → exec .validate s = .next { s with OVR := true })

/-- TRY idx: for COUNT + 1 in LSET it starts the hash of the COUNT words followed by idx, and BS and COUNT stay;
otherwise WORD_COUNT and no result changes; its encoding; dropped while BUSY = 1 (R132). -/
def Obligations.TryMeaning : Prop :=
  (∀ (v : Word) (idx : Index), decode v = .instr (.tryWord idx) ↔
    v &&& 0xF800FFFF = 0x00000004 ∧ idx = v.extractLsb' 16 11) ∧
  ∀ (s : State) (idx : Index),
    (s.BUSY = false → s.COUNT.toNat + 1 ∈ [12, 15, 18, 21, 24] → ∃ M : BitString,
      exec (.tryWord idx) s = .next { s with
        PEND := some ⟨s.COUNT + 1, M⟩, BUSY := true, DONE := false, VALID := false,
        ERR := .noError } ∧
      M.toNat = s.BS.toNat / 2 ^ (264 - 11 * s.COUNT.toNat) * 2 ^ 11 + idx.toNat) ∧
    (s.BUSY = false → s.COUNT.toNat + 1 ∉ [12, 15, 18, 21, 24] →
      exec (.tryWord idx) s = .next { s with DONE := true, VALID := false, ERR := .wordCount }) ∧
    (s.BUSY = true → exec (.tryWord idx) s = .next { s with OVR := true })

/-- An accepted command either completes within its own write, with DONE = 1 and BUSY = 0, or is a VALIDATE or TRY that
has started hashing, with BUSY = 1 and DONE = 0 (R62, R239). -/
def Obligations.CommandCompletesOrHashes : Prop :=
  ∀ (i : Instr) (s : State), s.BUSY = false → ∃ t, exec i s = .next t ∧
    ((t.BUSY = false ∧ t.DONE = true) ∨
     (t.BUSY = true ∧ t.DONE = false ∧ t.PEND ≠ none ∧ (i = .validate ∨ ∃ idx, i = .tryWord idx)))

/-! ### Completion and its laws (R133 to R143) -/

/-- The engine's step: enabled iff BUSY = 1, it splits the packed value, hashes the first ENT bits, compares, and writes
the results together; ERR, OVR, BS and COUNT stay (R133, R134, R136). That a turn of an engine that is not enabled
changes nothing is the model's choice (log entry 2). -/
def Obligations.EngineCompletes : Prop :=
  (∀ s : State, s.BUSY = false → takeEvent .engine s = .next s) ∧
  ∀ (s : State) (p : Pending), s.BUSY = true → s.PEND = some p →
    p.PL.toNat ∈ [12, 15, 18, 21, 24] → p.PM.toNat < 2 ^ (11 * p.PL.toNat) →
    ∀ (L M cs : Nat) (D : Digest), L = p.PL.toNat → M = p.PM.toNat → cs = L / 3 →
      D = hashWrap (32 * cs) (BitVec.ofNat (32 * cs) (M / 2 ^ cs)) →
      takeEvent .engine s = .next { s with
        VALID := decide (D.value.toNat / 2 ^ (256 - cs) = M % 2 ^ cs),
        CSUM := BitVec.ofNat 8 (D.value.toNat / 2 ^ (256 - cs)),
        RCVD := BitVec.ofNat 8 (M % 2 ^ cs),
        CSLEN := BitVec.ofNat 4 cs, DIG := D, BUSY := false, DONE := true, PEND := none }

/-- At completion VALID = 1 iff the CS checksum bits are equal, and a mismatch is no error: ERR = 0 either way (R135). -/
def Obligations.ComparatorVerdict : Prop :=
  ∀ (s : State) (p : Pending), StateInv s → s.PEND = some p →
    (engineTurn s).ERR = .noError ∧
    ((engineTurn s).VALID = true ↔
      expectedChecksum hashWrap p.PL.toNat p.PM.toNat = p.PM.toNat % 2 ^ (p.PL.toNat / 3))

/-- CSUM, RCVD, CSLEN and DIG are written at completion, with the zero-extended checksums, CS and the digest, and
otherwise only by CLEAR and reset (R136). -/
def Obligations.ResultWriters : Prop :=
  (∀ (s t : State), step s = .next t →
    (t.CSUM, t.RCVD, t.CSLEN, t.DIG) ≠ (s.CSUM, s.RCVD, s.CSLEN, s.DIG) →
    takesCompletion s ∨ takesReset s ∨ acceptsWord 0x00000001 s) ∧
  ∀ (s t : State) (p : Pending), StateInv s → takesCompletion s → s.PEND = some p → step s = .next t →
    t.CSUM.toNat = expectedChecksum hashWrap p.PL.toNat p.PM.toNat ∧
    t.RCVD.toNat = p.PM.toNat % 2 ^ (p.PL.toNat / 3) ∧
    t.CSLEN.toNat = p.PL.toNat / 3 ∧
    t.DIG = hashWrap (32 * (p.PL.toNat / 3))
      (BitVec.ofNat (32 * (p.PL.toNat / 3)) (p.PM.toNat / 2 ^ (p.PL.toNat / 3))) ∧
    regValue t .check = 0#12 ++ t.CSLEN ++ t.RCVD ++ t.CSUM ∧
    ∀ j : Fin 8, regValue t (.digest j) = t.DIG.word j

/-- VALID is cleared by every accepted CMD write and raised by nothing but a completion (R25). -/
def Obligations.ValidOnlyFromCompletion : Prop :=
  ∀ s t : State, step s = .next t →
    ((∃ v, acceptsWord v s) → t.VALID = false) ∧
    (t.VALID = true → s.VALID = true ∨
      (takesCompletion s ∧ t.VALID = (engineTurn s).VALID ∧ t.ERR = s.ERR ∧ t.DONE = true))

/-- VALID, CSUM, RCVD, CSLEN and DIG after completion are a function of PEND alone (R143). -/
def Obligations.ResultsDependOnPendingOnly : Prop :=
  ∀ s s' : State, s.BUSY = true → s'.BUSY = true → s.PEND ≠ none → s.PEND = s'.PEND →
    sameResults (engineTurn s) (engineTurn s')

/-- For every digest function and every prefix of L−1 words, exactly one candidate for each value x of the 11−CS
leading bits gives VALID = 1, so 2^(11−CS) in all (R138, R173). -/
def Obligations.CompletionCount : Prop :=
  ∀ (hash : HashFn) (s : State) (cs : Nat), s.BUSY = false →
    s.COUNT.toNat + 1 ∈ [12, 15, 18, 21, 24] → cs = (s.COUNT.toNat + 1) / 3 →
    (∀ x < 2 ^ (11 - cs), ∃! idx : Index,
      idx.toNat / 2 ^ cs = x ∧ tryVerdict hash s idx = true) ∧
    Set.ncard {idx : Index | tryVerdict hash s idx = true} = 2 ^ (11 - cs)

/-- For every digest function, TRY idx and APPEND idx; VALIDATE reach the same VALID, CSUM, RCVD, CSLEN and DIG at
completion, and differ only in BS and COUNT: TRY leaves them, APPEND advances them (R139, R173). -/
def Obligations.TryEquivalence : Prop :=
  ∀ (hash : HashFn) (s : State) (idx : Index), s.BUSY = false →
    s.COUNT.toNat + 1 ∈ [12, 15, 18, 21, 24] →
    ∃ t a v, exec (.tryWord idx) s = .next t ∧ exec (.append idx) s = .next a ∧
      exec .validate a = .next v ∧ t.BUSY = true ∧ v.BUSY = true ∧
      sameResults (engineTurnWith hash t) (engineTurnWith hash v) ∧
      (engineTurnWith hash t).BS = s.BS ∧ (engineTurnWith hash t).COUNT = s.COUNT ∧
      slotRead (engineTurnWith hash v).BS s.COUNT.toNat = idx ∧
      engineTurnWith hash v = { engineTurnWith hash t with
        BS := (engineTurnWith hash v).BS, COUNT := s.COUNT + 1 }

/-- For every digest function and every valid last word: changing only its checksum bits makes the mnemonic invalid, a
replacement stays valid iff its low CS bits are the checksum of the new entropy, and exactly 2^(11−CS) − 1 other
last words are valid (R140). -/
def Obligations.ChecksumSensitivity : Prop :=
  ∀ (hash : HashFn) (s : State) (idx : Index) (cs pre : Nat), s.BUSY = false →
    s.COUNT.toNat + 1 ∈ [12, 15, 18, 21, 24] → cs = (s.COUNT.toNat + 1) / 3 →
    pre = s.BS.toNat / 2 ^ (264 - 11 * s.COUNT.toNat) → tryVerdict hash s idx = true →
    (∀ idx' : Index, idx'.toNat / 2 ^ cs = idx.toNat / 2 ^ cs → idx' ≠ idx →
      tryVerdict hash s idx' = false) ∧
    (∀ idx' : Index, tryVerdict hash s idx' = true ↔
      idx'.toNat % 2 ^ cs =
        expectedChecksum hash (s.COUNT.toNat + 1) (pre * 2 ^ 11 + idx'.toNat)) ∧
    Set.ncard {idx' : Index | idx' ≠ idx ∧ tryVerdict hash s idx' = true} = 2 ^ (11 - cs) - 1

/-! ### The hash wrapper (42_sha256_wrapper.md) -/

/-- The message bytes, taken MSB first, are the entropy value (R161, R134). -/
def Obligations.MessageBytesAreEntropy : Prop :=
  ∀ (ent : Nat) (e : BitVec ent), 8 ∣ ent →
    (entropyBytes ent e).length = ent / 8 ∧
    (entropyBytes ent e).foldl (fun acc b => acc * 256 + b.toNat) 0 = e.toNat

/-- The padded block word by word for every ENT, and the entropy words as the registers BITSi (R164). -/
def Obligations.PaddedBlockWords : Prop :=
  (∀ (ent : Nat) (e : BitVec ent), ent ∈ [128, 160, 192, 224, 256] → ∀ t < 16,
    blockWord (padBlock ent e) t =
      if t < ent / 32 then e.extractLsb' (ent - 32 - 32 * t) 32
      else if t = ent / 32 then 0x80000000
      else if t = 15 then BitVec.ofNat 32 ent
      else 0) ∧
  (∀ (bs : BitString) (L : Nat) (j : Fin 9), L ∈ [12, 15, 18, 21, 24] → j.val < entOf L / 32 →
    (entropy L (firstWords bs L)).extractLsb' (entOf L - 32 - 32 * j.val) 32 = bitsWord bs j)

/-- The message schedule has 64 words: the block words, and then the recurrence (R168). -/
def Obligations.ScheduleRecurrence : Prop :=
  ∀ P : BitVec 512, (schedule P).length = 64 ∧
    (∀ t < 16, (schedule P).getD t 0 = P.extractLsb' (480 - 32 * t) 32) ∧
    (∀ t, 16 ≤ t → t < 64 → (schedule P).getD t 0 =
      smallSigma1 ((schedule P).getD (t - 2) 0) + (schedule P).getD (t - 7) 0 +
        smallSigma0 ((schedule P).getD (t - 15) 0) + (schedule P).getD (t - 16) 0)

/-- The checksum is the top CS bits of the digest, and lies within its first byte for CS ≤ 8 (R170). -/
def Obligations.ChecksumIsTopOfDigest : Prop :=
  ∀ (d : Digest) (cs : Nat), 4 ≤ cs → cs ≤ 8 →
    (d.checksum cs).toNat = d.value.toNat / 2 ^ (256 - cs) ∧
    (d.checksum cs).toNat = d.h0.toNat / 2 ^ (32 - cs) ∧
    (d.checksum cs).toNat = (d.h0.extractLsb' 24 8).toNat / 2 ^ (8 - cs)

/-- The two worked digests (R174). -/
def Obligations.WorkedDigests : Prop :=
  hashWrap 128 0 = ⟨0x374708ff, 0xf7719dd5, 0x979ec875, 0xd56cd228,
    0x6f6d3cf7, 0xec317a3b, 0x25632aab, 0x28ec37bb⟩ ∧
  (hashWrap 128 0).checksum 4 = 0x3 ∧
  hashWrap 256 0 = ⟨0x66687aad, 0xf862bd77, 0x6c8fc18b, 0x8e9f8e20,
    0x08971485, 0x6ee233b3, 0x902a591d, 0x0d5f2925⟩ ∧
  (hashWrap 256 0).checksum 8 = 0x66

/-! ### The bit string (R21, R104, R106) -/

/-- Every step acts on the bit string as it does on the source's word list: a state that represents `is` steps to one
that represents the list after the step (R104, R45). -/
def Obligations.BuilderRefinesWordList : Prop :=
  ∀ (s t : State) (is : List Index), is.length ≤ 24 → Represents is s → step s = .next t →
    (wordsAfterStep s is).length ≤ 24 ∧ Represents (wordsAfterStep s is) t

/-- A bit string that represents `is` reads back word k as `i_k`, and is zero after the last word (R21, R104). -/
def Obligations.WordsReadBack : Prop :=
  ∀ (s : State) (is : List Index), is.length ≤ 24 → Represents is s →
    (∀ k (h : k < is.length), slotRead s.BS k = is[k]) ∧
    (∀ n < 264 - 11 * is.length, s.BS.getLsbD n = false)

/-- No step but an accepted CLEAR, which empties BS, or a reset changes a word already in BS or takes one away, and no
step but these and an accepted APPEND writes BS or COUNT; a TRY stores nothing (R106). -/
def Obligations.WordsAreAppendOnly : Prop :=
  ∀ s t : State, StateInv s → step s = .next t →
    (acceptsWord 0x00000001 s → t.BS = 0 ∧ t.COUNT = 0) ∧
    (¬ takesReset s → ¬ acceptsWord 0x00000001 s →
      s.COUNT.toNat ≤ t.COUNT.toNat ∧
      (∀ k < s.COUNT.toNat, slotRead t.BS k = slotRead s.BS k) ∧
      ((∀ idx, ¬ acceptsWord (encode (.append idx)) s) → t.BS = s.BS ∧ t.COUNT = s.COUNT))

/-! ### Invariants and reset (R43, R231) -/

/-- Every step keeps the invariants of R43. -/
def Obligations.InvariantKeptByStep : Prop :=
  ∀ s t : State, StateInv s → step s = .next t → StateInv t

/-- The reset state satisfies the invariants of R43. -/
def Obligations.InvariantAtReset : Prop := StateInv State.reset

/-- A reset edge: every state element takes its value of R42, STATUS, CHECK, BITSj and DIGESTj read 0, and a
transaction presented in that cycle is not performed and answers (0, 0) (R231, R232). -/
def Obligations.ResetEdgeClearsEverything : Prop :=
  ∀ (s : State) (presented : Option Txn) (rest : List Event), s.inputs = .reset presented :: rest →
    ∃ t, step s = .next t ∧ t.inputs = rest ∧ t.freeIndex = s.freeIndex ∧
      t.bus = ⟨0x00000000, false⟩ ∧
      t.BS = 0 ∧ t.COUNT = 0 ∧ t.BUSY = false ∧ t.DONE = false ∧ t.VALID = false ∧ t.OVR = false ∧
      t.ERR = .noError ∧ t.CSUM = 0 ∧ t.RCVD = 0 ∧ t.CSLEN = 0 ∧
      t.DIG = ⟨0, 0, 0, 0, 0, 0, 0, 0⟩ ∧ t.PEND = none ∧
      ∀ r : Reg, regValue t r = 0

/-! ### The register bus (R37 to R41, R55, R56, R207) -/

/-- A read returns the register at its offset with `bus_err = 0`, is refused at a misaligned or reserved offset, and
changes no state (R55). -/
def Obligations.ReadsReturnRegisters : Prop :=
  ∀ (s : State) (off : Offset) (rest : List Event), s.inputs = .host (.read off 4) :: rest →
    ∃ out : BusOut, step s = .next { s with inputs := rest, bus := out } ∧
      (off = 0x00 → out = ⟨0x00000000, false⟩) ∧
      (off = 0x04 → out = ⟨statusWord s, false⟩) ∧
      (off = 0x08 → out = ⟨checkWord s, false⟩) ∧
      (∀ j : Fin 9, off.toNat = 0x10 + 4 * j.val → out = ⟨bitsWord s.BS j, false⟩) ∧
      (∀ j : Fin 8, off.toNat = 0x40 + 4 * j.val → out = ⟨s.DIG.word j, false⟩) ∧
      (off.toNat % 4 ≠ 0 ∨ off.toNat = 0x0C ∨ (0x34 ≤ off.toNat ∧ off.toNat ≤ 0x3C) ∨
        0x60 ≤ off.toNat → out = ⟨0x00000000, true⟩)

/-- A write to an offset other than 0x00 is refused without any effect, not even OVR; a write to 0x00 delivers its word
to the command decoder and answers `bus_err = 0` whatever becomes of it (R56). The data of that answer is the free
value of log entry 1. -/
def Obligations.WritesReachOnlyCmd : Prop :=
  ∀ (s : State) (off : Offset) (v : Word) (rest : List Event),
    s.inputs = .host (.write off 4 v) :: rest →
    (off ≠ 0x00 → step s = .next { s with inputs := rest, bus := ⟨0x00000000, true⟩ }) ∧
    (off = 0x00 → ∃ t, step s = .next t ∧ t.bus.err = false ∧
      commandWord v { s with
        inputs := rest, bus := ⟨Config.freeWriteData s.freeIndex, false⟩,
        freeIndex := s.freeIndex + 1 } = .next t)

/-- Which transactions are refused, with their cause in the order of R209, and that a refused one answers
`bus_err = 1`, `bus_rdata = 0` and changes nothing else (R207, R209). -/
def Obligations.BusErrorCauses : Prop :=
  (∀ off : Offset,
    (readError off = some .misaligned ↔ off.toNat % 4 ≠ 0) ∧
    (writeError off = some .misaligned ↔ off.toNat % 4 ≠ 0) ∧
    (readError off = some .unmapped ↔ off.toNat % 4 = 0 ∧
      (off.toNat = 0x0C ∨ (0x34 ≤ off.toNat ∧ off.toNat ≤ 0x3C) ∨ 0x60 ≤ off.toNat)) ∧
    (writeError off = some .unmapped ↔ off.toNat % 4 = 0 ∧
      (off.toNat = 0x0C ∨ (0x34 ≤ off.toNat ∧ off.toNat ≤ 0x3C) ∨ 0x60 ≤ off.toNat)) ∧
    readError off ≠ some .readOnly ∧
    (writeError off = some .readOnly ↔ off.toNat % 4 = 0 ∧
      (off.toNat = 0x04 ∨ off.toNat = 0x08 ∨ (0x10 ≤ off.toNat ∧ off.toNat ≤ 0x30) ∨
        (0x40 ≤ off.toNat ∧ off.toNat ≤ 0x5C)))) ∧
  (∀ (s : State) (off : Offset) (v : Word),
    (readError off ≠ none →
      hostTransaction (.read off 4) s = .next { s with bus := ⟨0x00000000, true⟩ }) ∧
    (writeError off ≠ none →
      hostTransaction (.write off 4 v) s = .next { s with bus := ⟨0x00000000, true⟩ }) ∧
    (readError off = none →
      ∃ t, hostTransaction (.read off 4) s = .next t ∧ t.bus.err = false) ∧
    (writeError off = none →
      ∃ t, hostTransaction (.write off 4 v) s = .next t ∧ t.bus.err = false))

/-- The fields of STATUS, CHECK and DIGESTj, and their reserved bits, which read 0 (R37, R38, R40). -/
def Obligations.RegisterFields : Prop :=
  ∀ s : State,
    ((statusWord s).getLsbD 0 = s.BUSY ∧ (statusWord s).getLsbD 1 = s.DONE ∧
      (statusWord s).getLsbD 2 = s.VALID ∧ (statusWord s).getLsbD 3 = s.OVR ∧
      (statusWord s).extractLsb' 4 3 = s.ERR.code ∧ (statusWord s).getLsbD 7 = false ∧
      (statusWord s).extractLsb' 8 5 = s.COUNT ∧ (statusWord s).extractLsb' 13 19 = 0) ∧
    ((checkWord s).extractLsb' 0 8 = s.CSUM ∧ (checkWord s).extractLsb' 8 8 = s.RCVD ∧
      (checkWord s).extractLsb' 16 4 = s.CSLEN ∧ (checkWord s).extractLsb' 20 12 = 0) ∧
    (∀ j : Fin 8, regValue s (.digest j) = s.DIG.value.extractLsb' (224 - 32 * j.val) 32)

/-- BITSj holds stream bits 32·j to 32·j + 31, the first in bit 31, and zeros past the end of BS; so the entropy bytes
of a validated mnemonic are the bytes of BITS0, BITS1, ... (R39). -/
def Obligations.BitsRegistersShowTheStream : Prop :=
  (∀ (s : State) (j : Fin 9) (i : Nat), i < 32 →
    (regValue s (.bits j)).getLsbD (31 - i) =
      if 32 * j.val + i < 264 then s.BS.getLsbD (263 - (32 * j.val + i)) else false) ∧
  (∀ (bs : BitString) (L b : Nat) (j : Fin 9), L ∈ [12, 15, 18, 21, 24] → b < entOf L / 8 →
    j.val = b / 4 →
    (entropyBytes (entOf L) (entropy L (firstWords bs L)))[b]? =
      some ((bitsWord bs j).extractLsb' (24 - 8 * (b % 4)) 8))

/-- The host cannot read PEND: no read depends on it (R32). -/
def Obligations.PendingIsHidden : Prop :=
  ∀ (s s' : State) (off : Offset), s' = { s with PEND := s'.PEND } →
    readResponse off s = readResponse off s'

/-! ### Runs (R12, R220, R236, R241) -/

/-- A well-formed event, or none, always gives a next state; the others are refused by the names of U1, U5 and U6
(R12, R54, R220). What happens when nothing is scheduled is the model's reading (log entry 5). -/
def Obligations.OnlyOutsideEventsStop : Prop :=
  ∀ s : State,
    (s.inputs = [] → ∃ t, step s = .next t) ∧
    ∀ (e : Event) (rest : List Event), s.inputs = e :: rest →
      (e.wellFormed = true → ∃ t, step s = .next t) ∧
      (∀ t, e = .host t → t.wellFormed = false →
        ∃ n, n ≠ 4 ∧ step s = .refused (.accessWidth n)) ∧
      (∀ t, e = .otherMaster t → step s = .refused .otherMaster) ∧
      (e = .powerLoss → step s = .refused .unresetBlock)

/-- While a hash runs, whatever the host does leaves the running command, the bit string, ERR and the results of the
previous validation alone; VALID and DONE read 0. OVR alone can change, and a CMD write sets it (R206, R236). -/
def Obligations.ResultsStaleWhileBusy : Prop :=
  ∀ (s : State) (e : Event) (rest : List Event), StateInv s → s.BUSY = true → s.inputs = e :: rest →
    hashOutlives e = true →
    ∃ t, step s = .next t ∧ t.inputs = rest ∧ t.BUSY = true ∧ t.PEND = s.PEND ∧
      t.DONE = false ∧ t.VALID = false ∧ t.ERR = s.ERR ∧ t.BS = s.BS ∧ t.COUNT = s.COUNT ∧
      t.CSUM = s.CSUM ∧ t.RCVD = s.RCVD ∧ t.CSLEN = s.CSLEN ∧ t.DIG = s.DIG ∧
      (t.OVR ≠ s.OVR → t.OVR = true ∧ ∃ v, e = .host (.write 0x00 4 v))

/-- A started hash always completes: after any host activity the engine's turn, or the end of the schedule, brings
BUSY = 0, DONE = 1 and the results that PEND determines (R241, R242). That the completion comes at the end of the
schedule is the model's form of the fairness of R241 (log entry 5). -/
def Obligations.StartedHashCompletes : Prop :=
  ∀ (s : State) (es post : List Event), StateInv s → s.BUSY = true → es.all hashOutlives = true →
    (s.inputs = es ++ .engine :: post ∨ (s.inputs = es ∧ post = [])) →
    ∃ t : State, runSteps (es.length + 1) s = .next t ∧ t.inputs = post ∧
      t.BUSY = false ∧ t.DONE = true ∧ t.ERR = .noError ∧ t.PEND = none ∧
      sameResults (engineTurn s) t ∧ t.BS = s.BS ∧ t.COUNT = s.COUNT

/-- A run that has ended stays ended: nothing is owed, and the final observation does not change any more; a state with
BUSY = 1 and nothing scheduled is not final, its next step is the owed completion (R242; log entry 5). -/
def Obligations.FinishedRunIsStable : Prop :=
  (∀ s : State, Final s →
    ∃ t, step s = .next t ∧ Final t ∧ finalObservation t = finalObservation s) ∧
  (∀ s : State, StateInv s → s.inputs = [] → s.BUSY = true →
    ¬ Final s ∧ ∃ t, step s = .next t ∧ Final t ∧ t.DONE = true)

/-- While no hash runs, reads, refused writes, idle cycles and turns of the engine change no register, in any number
and order: several reads see one consistent set of results (R57, R60, R238). -/
def Obligations.ReadsSeeOneResultSet : Prop :=
  ∀ (s : State) (es post : List Event), s.BUSY = false → es.all leavesRegisters = true →
    s.inputs = es ++ post →
    ∃ t : State, runSteps es.length s = .next t ∧ t.inputs = post ∧ t.BUSY = false ∧
      ∀ r : Reg, regValue t r = regValue s r

/-- For every HASH_LATENCY: at the pins a started hash stays BUSY for HASH_LATENCY − 1 further edges and completes at the
next, whatever the host presents, while `rst_n = 1`; the countdown starts at HASH_LATENCY at the accepting edge
(R240, R241, R14; log entry 10). -/
def Obligations.HashTakesItsLatency : Prop :=
  ∀ P : Params,
  (∀ (p : Pins) (c d : Clocked), clockEdge P p c = .next d → c.block.BUSY = false →
    d.block.BUSY = true →
    ∃ q, d.block.PEND = some q ∧ d.left = some (P.hashLatency q.PL.toNat)) ∧
  ∀ (c : Clocked) (n : Nat) (ps : List Pins), StateInv c.block → c.block.BUSY = true →
    c.left = some (n + 1) → ps.all (fun p => p.rstN) = true →
    (ps.length ≤ n → ∃ d, clockEdges P ps c = .next d ∧ d.block.BUSY = true ∧
      d.block.PEND = c.block.PEND ∧ d.left = some (n + 1 - ps.length)) ∧
    (ps.length = n + 1 → ∃ d, clockEdges P ps c = .next d ∧ d.block.BUSY = false ∧
      d.block.DONE = true ∧ d.left = none ∧ sameResults (engineTurn c.block) d.block)

/-- A transaction in the cycle of a completion sees the state before it: a CMD write is dropped with OVR = 1, a STATUS
read returns BUSY = 1, a read of any offset (CHECK, BITSj and DIGESTj among them) answers as before the completion, and
a refused write or a cycle without a transaction answers as ever; the completion happens in each. A reset in that cycle
overrides all (R52, R210, R230; log entry 10). -/
def Obligations.SameCycleHostComesFirst : Prop :=
  ∀ (P : Params) (c : Clocked) (p : Pins), StateInv c.block → c.block.BUSY = true →
    c.left = some 1 →
    (p.rstN = true → p.busSel = true → p.busWe = true → p.busAddr = 0x00 →
      ∃ d, clockEdge P p c = .next d ∧ d.block.OVR = true ∧ d.block.BUSY = false ∧
        sameResults (engineTurn c.block) d.block ∧ d.block.BS = c.block.BS ∧
        d.block.COUNT = c.block.COUNT) ∧
    (p.rstN = true → p.busSel = true → p.busWe = false → p.busAddr = 0x04 →
      ∃ d, clockEdge P p c = .next d ∧ d.block.bus = ⟨statusWord c.block, false⟩ ∧
        d.block.bus.rdata.getLsbD 0 = true ∧ d.block.BUSY = false ∧
        sameResults (engineTurn c.block) d.block) ∧
    (p.rstN = true → p.busSel = true → p.busWe = false →
      ∃ d, clockEdge P p c = .next d ∧ d.block.bus = readResponse p.busAddr c.block ∧
        (∀ r : Reg, p.busAddr = regOffset r → d.block.bus = ⟨regValue c.block r, false⟩) ∧
        d.block.OVR = c.block.OVR ∧ d.block.BUSY = false ∧
        sameResults (engineTurn c.block) d.block) ∧
    (p.rstN = true → p.busSel = true → p.busWe = true → p.busAddr ≠ 0x00 →
      ∃ d, clockEdge P p c = .next d ∧ d.block.bus = ⟨0x00000000, true⟩ ∧
        d.block.OVR = c.block.OVR ∧ d.block.BUSY = false ∧
        sameResults (engineTurn c.block) d.block) ∧
    (p.rstN = true → p.busSel = false →
      ∃ d, clockEdge P p c = .next d ∧ d.block.bus = ⟨0x00000000, false⟩ ∧
        d.block.OVR = c.block.OVR ∧ d.block.BUSY = false ∧
        sameResults (engineTurn c.block) d.block) ∧
    (p.rstN = false → clockEdge P p c = .next ⟨{ State.reset with
      inputs := c.block.inputs, bus := ⟨0, false⟩, freeIndex := c.block.freeIndex }, none⟩)

/-! ### Pseudo-instructions and the platform (R89, R141, R70) -/

/-- CHECKM of any list of at most 24 indices, from any state with BUSY = 0 and however many polls its WAIT takes: for a
length in LSET it ends with BUSY = 0, DONE = 1, ERR = 0, the words in BS, and VALID iff the last CS bits of the
packed list are the checksum of the rest; otherwise with ERR = WORD_COUNT and VALID = 0. The STATUS value read last
judges the mnemonic in the first case only (R89, R141, R237; log entry 15). -/
def Obligations.CheckmDecidesValidity : Prop :=
  ∀ (s : State) (is : List Index) (polls : Nat) (post : List Event), s.BUSY = false →
    is.length ≤ 24 → s.inputs = checkmEvents polls is ++ post →
    ∃ t : State, runSteps (checkmEvents polls is).length s = .next t ∧ t.inputs = post ∧
      Represents is t ∧ t.BUSY = false ∧ t.DONE = true ∧ t.OVR = false ∧
      t.bus = ⟨statusWord t, false⟩ ∧
      (is.length ∈ [12, 15, 18, 21, 24] → t.ERR = .noError ∧ judges t.bus.rdata = true ∧
        (t.VALID = true ↔ expectedChecksum hashWrap is.length (pack is).toNat =
          (pack is).toNat % 2 ^ (is.length / 3))) ∧
      (is.length ∉ [12, 15, 18, 21, 24] → t.ERR = .wordCount ∧ t.VALID = false ∧
        judges t.bus.rdata = false)

/-- SCAN records, in increasing order, exactly the candidates whose TRY gives VALID = 1, and that is 2^(11−CS) of them
(R89, R138, R141; log entry 15). -/
def Obligations.ScanRecordsExactlyTheCompletions : Prop :=
  ∀ (s : State) (polls : Nat), s.BUSY = false →
    s.COUNT.toNat + 1 ∈ [12, 15, 18, 21, 24] →
    (scan polls s).1 = allIndices.filter (tryVerdict hashWrap s) ∧
    (scan polls s).1.length = 2 ^ (11 - (s.COUNT.toNat + 1) / 3) ∧
    (scan polls s).2.BS = s.BS ∧ (scan polls s).2.COUNT = s.COUNT

/-- A step of one instance leaves every other instance as it is and does to its own what `step` does. For every
BCV_BASE and N_INSTANCES: the platform begins with N_INSTANCES blocks in the reset state, and a platform address finds
its offset back (R35, R70, R14; log entry 11). -/
def Obligations.InstancesAreIndependent : Prop :=
  (∀ (p q : Platform) (k : Nat) (s : State), p.instances[k]? = some s → p.stepAt k = .next q →
    (∃ t, step s = .next t ∧ q.instances[k]? = some t) ∧
    ∀ j, j ≠ k → q.instances[j]? = p.instances[j]?) ∧
  ∀ P : Params,
    (Platform.reset P).instances.length = P.instances ∧
    (∀ k < P.instances, (Platform.reset P).instances[k]? = some .reset) ∧
    ∀ (k : Nat) (off : Offset), platformOffset P k (platformAddress P k off) = some off
end

