-- ==== Sys2Proof/Laws/State.lean ====
section
/-! SUPPORT. What each update of State does to each field: one lemma per field, true by definition. -/

namespace Sys2Proof.Machine

/-! ### accept: acceptance (R100) -/

@[simp] theorem accept_BS (s : State) : (accept s).BS = s.BS := rfl
@[simp] theorem accept_COUNT (s : State) : (accept s).COUNT = s.COUNT := rfl
@[simp] theorem accept_BUSY (s : State) : (accept s).BUSY = s.BUSY := rfl
@[simp] theorem accept_DONE (s : State) : (accept s).DONE = false := rfl
@[simp] theorem accept_VALID (s : State) : (accept s).VALID = false := rfl
@[simp] theorem accept_OVR (s : State) : (accept s).OVR = s.OVR := rfl
@[simp] theorem accept_ERR (s : State) : (accept s).ERR = .noError := rfl
@[simp] theorem accept_CSUM (s : State) : (accept s).CSUM = s.CSUM := rfl
@[simp] theorem accept_RCVD (s : State) : (accept s).RCVD = s.RCVD := rfl
@[simp] theorem accept_CSLEN (s : State) : (accept s).CSLEN = s.CSLEN := rfl
@[simp] theorem accept_DIG (s : State) : (accept s).DIG = s.DIG := rfl
@[simp] theorem accept_PEND (s : State) : (accept s).PEND = s.PEND := rfl
@[simp] theorem accept_inputs (s : State) : (accept s).inputs = s.inputs := rfl
@[simp] theorem accept_bus (s : State) : (accept s).bus = s.bus := rfl
@[simp] theorem accept_freeIndex (s : State) : (accept s).freeIndex = s.freeIndex := rfl

/-! ### overrun: a dropped CMD write (R100) -/

@[simp] theorem overrun_BS (s : State) : (overrun s).BS = s.BS := rfl
@[simp] theorem overrun_COUNT (s : State) : (overrun s).COUNT = s.COUNT := rfl
@[simp] theorem overrun_BUSY (s : State) : (overrun s).BUSY = s.BUSY := rfl
@[simp] theorem overrun_DONE (s : State) : (overrun s).DONE = s.DONE := rfl
@[simp] theorem overrun_VALID (s : State) : (overrun s).VALID = s.VALID := rfl
@[simp] theorem overrun_OVR (s : State) : (overrun s).OVR = true := rfl
@[simp] theorem overrun_ERR (s : State) : (overrun s).ERR = s.ERR := rfl
@[simp] theorem overrun_CSUM (s : State) : (overrun s).CSUM = s.CSUM := rfl
@[simp] theorem overrun_RCVD (s : State) : (overrun s).RCVD = s.RCVD := rfl
@[simp] theorem overrun_CSLEN (s : State) : (overrun s).CSLEN = s.CSLEN := rfl
@[simp] theorem overrun_DIG (s : State) : (overrun s).DIG = s.DIG := rfl
@[simp] theorem overrun_PEND (s : State) : (overrun s).PEND = s.PEND := rfl
@[simp] theorem overrun_inputs (s : State) : (overrun s).inputs = s.inputs := rfl
@[simp] theorem overrun_bus (s : State) : (overrun s).bus = s.bus := rfl
@[simp] theorem overrun_freeIndex (s : State) : (overrun s).freeIndex = s.freeIndex := rfl

/-! ### finish: completion within the write (R62) -/

@[simp] theorem finish_BS (s : State) : (finish s).BS = s.BS := rfl
@[simp] theorem finish_COUNT (s : State) : (finish s).COUNT = s.COUNT := rfl
@[simp] theorem finish_BUSY (s : State) : (finish s).BUSY = s.BUSY := rfl
@[simp] theorem finish_DONE (s : State) : (finish s).DONE = true := rfl
@[simp] theorem finish_VALID (s : State) : (finish s).VALID = s.VALID := rfl
@[simp] theorem finish_OVR (s : State) : (finish s).OVR = s.OVR := rfl
@[simp] theorem finish_ERR (s : State) : (finish s).ERR = s.ERR := rfl
@[simp] theorem finish_CSUM (s : State) : (finish s).CSUM = s.CSUM := rfl
@[simp] theorem finish_RCVD (s : State) : (finish s).RCVD = s.RCVD := rfl
@[simp] theorem finish_CSLEN (s : State) : (finish s).CSLEN = s.CSLEN := rfl
@[simp] theorem finish_DIG (s : State) : (finish s).DIG = s.DIG := rfl
@[simp] theorem finish_PEND (s : State) : (finish s).PEND = s.PEND := rfl
@[simp] theorem finish_inputs (s : State) : (finish s).inputs = s.inputs := rfl
@[simp] theorem finish_bus (s : State) : (finish s).bus = s.bus := rfl
@[simp] theorem finish_freeIndex (s : State) : (finish s).freeIndex = s.freeIndex := rfl

/-! ### raiseCmdError: a command error (R200) -/

@[simp] theorem raiseCmdError_BS (code : ErrCode) (s : State) : (raiseCmdError code s).BS = s.BS := rfl
@[simp] theorem raiseCmdError_COUNT (code : ErrCode) (s : State) : (raiseCmdError code s).COUNT = s.COUNT := rfl
@[simp] theorem raiseCmdError_BUSY (code : ErrCode) (s : State) : (raiseCmdError code s).BUSY = s.BUSY := rfl
@[simp] theorem raiseCmdError_DONE (code : ErrCode) (s : State) : (raiseCmdError code s).DONE = true := rfl
@[simp] theorem raiseCmdError_VALID (code : ErrCode) (s : State) : (raiseCmdError code s).VALID = s.VALID := rfl
@[simp] theorem raiseCmdError_OVR (code : ErrCode) (s : State) : (raiseCmdError code s).OVR = s.OVR := rfl
@[simp] theorem raiseCmdError_ERR (code : ErrCode) (s : State) : (raiseCmdError code s).ERR = code := rfl
@[simp] theorem raiseCmdError_CSUM (code : ErrCode) (s : State) : (raiseCmdError code s).CSUM = s.CSUM := rfl
@[simp] theorem raiseCmdError_RCVD (code : ErrCode) (s : State) : (raiseCmdError code s).RCVD = s.RCVD := rfl
@[simp] theorem raiseCmdError_CSLEN (code : ErrCode) (s : State) : (raiseCmdError code s).CSLEN = s.CSLEN := rfl
@[simp] theorem raiseCmdError_DIG (code : ErrCode) (s : State) : (raiseCmdError code s).DIG = s.DIG := rfl
@[simp] theorem raiseCmdError_PEND (code : ErrCode) (s : State) : (raiseCmdError code s).PEND = s.PEND := rfl
@[simp] theorem raiseCmdError_inputs (code : ErrCode) (s : State) : (raiseCmdError code s).inputs = s.inputs := rfl
@[simp] theorem raiseCmdError_bus (code : ErrCode) (s : State) : (raiseCmdError code s).bus = s.bus := rfl
@[simp] theorem raiseCmdError_freeIndex (code : ErrCode) (s : State) : (raiseCmdError code s).freeIndex = s.freeIndex := rfl

/-! ### startHash: the start of a hash (R131) -/

@[simp] theorem startHash_BS (L : Nat) (M : BitString) (s : State) : (startHash L M s).BS = s.BS := rfl
@[simp] theorem startHash_COUNT (L : Nat) (M : BitString) (s : State) : (startHash L M s).COUNT = s.COUNT := rfl
@[simp] theorem startHash_BUSY (L : Nat) (M : BitString) (s : State) : (startHash L M s).BUSY = true := rfl
@[simp] theorem startHash_DONE (L : Nat) (M : BitString) (s : State) : (startHash L M s).DONE = s.DONE := rfl
@[simp] theorem startHash_VALID (L : Nat) (M : BitString) (s : State) : (startHash L M s).VALID = s.VALID := rfl
@[simp] theorem startHash_OVR (L : Nat) (M : BitString) (s : State) : (startHash L M s).OVR = s.OVR := rfl
@[simp] theorem startHash_ERR (L : Nat) (M : BitString) (s : State) : (startHash L M s).ERR = s.ERR := rfl
@[simp] theorem startHash_CSUM (L : Nat) (M : BitString) (s : State) : (startHash L M s).CSUM = s.CSUM := rfl
@[simp] theorem startHash_RCVD (L : Nat) (M : BitString) (s : State) : (startHash L M s).RCVD = s.RCVD := rfl
@[simp] theorem startHash_CSLEN (L : Nat) (M : BitString) (s : State) : (startHash L M s).CSLEN = s.CSLEN := rfl
@[simp] theorem startHash_DIG (L : Nat) (M : BitString) (s : State) : (startHash L M s).DIG = s.DIG := rfl
@[simp] theorem startHash_PEND (L : Nat) (M : BitString) (s : State) : (startHash L M s).PEND = some ⟨BitVec.ofNat 5 L, M⟩ := rfl
@[simp] theorem startHash_inputs (L : Nat) (M : BitString) (s : State) : (startHash L M s).inputs = s.inputs := rfl
@[simp] theorem startHash_bus (L : Nat) (M : BitString) (s : State) : (startHash L M s).bus = s.bus := rfl
@[simp] theorem startHash_freeIndex (L : Nat) (M : BitString) (s : State) : (startHash L M s).freeIndex = s.freeIndex := rfl

/-! ### clearAll: CLEAR (R102) -/

@[simp] theorem clearAll_BS (s : State) : (clearAll s).BS = 0 := rfl
@[simp] theorem clearAll_COUNT (s : State) : (clearAll s).COUNT = 0 := rfl
@[simp] theorem clearAll_BUSY (s : State) : (clearAll s).BUSY = s.BUSY := rfl
@[simp] theorem clearAll_DONE (s : State) : (clearAll s).DONE = s.DONE := rfl
@[simp] theorem clearAll_VALID (s : State) : (clearAll s).VALID = s.VALID := rfl
@[simp] theorem clearAll_OVR (s : State) : (clearAll s).OVR = false := rfl
@[simp] theorem clearAll_ERR (s : State) : (clearAll s).ERR = s.ERR := rfl
@[simp] theorem clearAll_CSUM (s : State) : (clearAll s).CSUM = 0 := rfl
@[simp] theorem clearAll_RCVD (s : State) : (clearAll s).RCVD = 0 := rfl
@[simp] theorem clearAll_CSLEN (s : State) : (clearAll s).CSLEN = 0 := rfl
@[simp] theorem clearAll_DIG (s : State) : (clearAll s).DIG = .zero := rfl
@[simp] theorem clearAll_PEND (s : State) : (clearAll s).PEND = s.PEND := rfl
@[simp] theorem clearAll_inputs (s : State) : (clearAll s).inputs = s.inputs := rfl
@[simp] theorem clearAll_bus (s : State) : (clearAll s).bus = s.bus := rfl
@[simp] theorem clearAll_freeIndex (s : State) : (clearAll s).freeIndex = s.freeIndex := rfl

/-! ### appendWord: APPEND (R103) -/

@[simp] theorem appendWord_BS (idx : Index) (s : State) : (appendWord idx s).BS = slotWrite s.BS s.COUNT.toNat idx := rfl
@[simp] theorem appendWord_COUNT (idx : Index) (s : State) : (appendWord idx s).COUNT = s.COUNT + 1 := rfl
@[simp] theorem appendWord_BUSY (idx : Index) (s : State) : (appendWord idx s).BUSY = s.BUSY := rfl
@[simp] theorem appendWord_DONE (idx : Index) (s : State) : (appendWord idx s).DONE = s.DONE := rfl
@[simp] theorem appendWord_VALID (idx : Index) (s : State) : (appendWord idx s).VALID = s.VALID := rfl
@[simp] theorem appendWord_OVR (idx : Index) (s : State) : (appendWord idx s).OVR = s.OVR := rfl
@[simp] theorem appendWord_ERR (idx : Index) (s : State) : (appendWord idx s).ERR = s.ERR := rfl
@[simp] theorem appendWord_CSUM (idx : Index) (s : State) : (appendWord idx s).CSUM = s.CSUM := rfl
@[simp] theorem appendWord_RCVD (idx : Index) (s : State) : (appendWord idx s).RCVD = s.RCVD := rfl
@[simp] theorem appendWord_CSLEN (idx : Index) (s : State) : (appendWord idx s).CSLEN = s.CSLEN := rfl
@[simp] theorem appendWord_DIG (idx : Index) (s : State) : (appendWord idx s).DIG = s.DIG := rfl
@[simp] theorem appendWord_PEND (idx : Index) (s : State) : (appendWord idx s).PEND = s.PEND := rfl
@[simp] theorem appendWord_inputs (idx : Index) (s : State) : (appendWord idx s).inputs = s.inputs := rfl
@[simp] theorem appendWord_bus (idx : Index) (s : State) : (appendWord idx s).bus = s.bus := rfl
@[simp] theorem appendWord_freeIndex (idx : Index) (s : State) : (appendWord idx s).freeIndex = s.freeIndex := rfl

/-! ### respond: driving the ports (R52) -/

@[simp] theorem respond_BS (out : BusOut) (s : State) : (respond out s).BS = s.BS := rfl
@[simp] theorem respond_COUNT (out : BusOut) (s : State) : (respond out s).COUNT = s.COUNT := rfl
@[simp] theorem respond_BUSY (out : BusOut) (s : State) : (respond out s).BUSY = s.BUSY := rfl
@[simp] theorem respond_DONE (out : BusOut) (s : State) : (respond out s).DONE = s.DONE := rfl
@[simp] theorem respond_VALID (out : BusOut) (s : State) : (respond out s).VALID = s.VALID := rfl
@[simp] theorem respond_OVR (out : BusOut) (s : State) : (respond out s).OVR = s.OVR := rfl
@[simp] theorem respond_ERR (out : BusOut) (s : State) : (respond out s).ERR = s.ERR := rfl
@[simp] theorem respond_CSUM (out : BusOut) (s : State) : (respond out s).CSUM = s.CSUM := rfl
@[simp] theorem respond_RCVD (out : BusOut) (s : State) : (respond out s).RCVD = s.RCVD := rfl
@[simp] theorem respond_CSLEN (out : BusOut) (s : State) : (respond out s).CSLEN = s.CSLEN := rfl
@[simp] theorem respond_DIG (out : BusOut) (s : State) : (respond out s).DIG = s.DIG := rfl
@[simp] theorem respond_PEND (out : BusOut) (s : State) : (respond out s).PEND = s.PEND := rfl
@[simp] theorem respond_inputs (out : BusOut) (s : State) : (respond out s).inputs = s.inputs := rfl
@[simp] theorem respond_bus (out : BusOut) (s : State) : (respond out s).bus = out := rfl
@[simp] theorem respond_freeIndex (out : BusOut) (s : State) : (respond out s).freeIndex = s.freeIndex := rfl

/-! ### ackWrite: the answer to a CMD write (R56) -/

@[simp] theorem ackWrite_BS (s : State) : (ackWrite s).BS = s.BS := rfl
@[simp] theorem ackWrite_COUNT (s : State) : (ackWrite s).COUNT = s.COUNT := rfl
@[simp] theorem ackWrite_BUSY (s : State) : (ackWrite s).BUSY = s.BUSY := rfl
@[simp] theorem ackWrite_DONE (s : State) : (ackWrite s).DONE = s.DONE := rfl
@[simp] theorem ackWrite_VALID (s : State) : (ackWrite s).VALID = s.VALID := rfl
@[simp] theorem ackWrite_OVR (s : State) : (ackWrite s).OVR = s.OVR := rfl
@[simp] theorem ackWrite_ERR (s : State) : (ackWrite s).ERR = s.ERR := rfl
@[simp] theorem ackWrite_CSUM (s : State) : (ackWrite s).CSUM = s.CSUM := rfl
@[simp] theorem ackWrite_RCVD (s : State) : (ackWrite s).RCVD = s.RCVD := rfl
@[simp] theorem ackWrite_CSLEN (s : State) : (ackWrite s).CSLEN = s.CSLEN := rfl
@[simp] theorem ackWrite_DIG (s : State) : (ackWrite s).DIG = s.DIG := rfl
@[simp] theorem ackWrite_PEND (s : State) : (ackWrite s).PEND = s.PEND := rfl
@[simp] theorem ackWrite_inputs (s : State) : (ackWrite s).inputs = s.inputs := rfl
@[simp] theorem ackWrite_bus (s : State) : (ackWrite s).bus = ⟨Config.freeWriteData s.freeIndex, false⟩ := rfl
@[simp] theorem ackWrite_freeIndex (s : State) : (ackWrite s).freeIndex = s.freeIndex + 1 := rfl

/-! ### resetEdge: a reset edge (R231) -/

@[simp] theorem resetEdge_BS (s : State) : (resetEdge s).BS = 0 := rfl
@[simp] theorem resetEdge_COUNT (s : State) : (resetEdge s).COUNT = 0 := rfl
@[simp] theorem resetEdge_BUSY (s : State) : (resetEdge s).BUSY = false := rfl
@[simp] theorem resetEdge_DONE (s : State) : (resetEdge s).DONE = false := rfl
@[simp] theorem resetEdge_VALID (s : State) : (resetEdge s).VALID = false := rfl
@[simp] theorem resetEdge_OVR (s : State) : (resetEdge s).OVR = false := rfl
@[simp] theorem resetEdge_ERR (s : State) : (resetEdge s).ERR = .noError := rfl
@[simp] theorem resetEdge_CSUM (s : State) : (resetEdge s).CSUM = 0 := rfl
@[simp] theorem resetEdge_RCVD (s : State) : (resetEdge s).RCVD = 0 := rfl
@[simp] theorem resetEdge_CSLEN (s : State) : (resetEdge s).CSLEN = 0 := rfl
@[simp] theorem resetEdge_DIG (s : State) : (resetEdge s).DIG = .zero := rfl
@[simp] theorem resetEdge_PEND (s : State) : (resetEdge s).PEND = none := rfl
@[simp] theorem resetEdge_inputs (s : State) : (resetEdge s).inputs = s.inputs := rfl
@[simp] theorem resetEdge_bus (s : State) : (resetEdge s).bus = busQuiet := rfl
@[simp] theorem resetEdge_freeIndex (s : State) : (resetEdge s).freeIndex = s.freeIndex := rfl

/-! ### completeWith: the engine's completion (R133) -/

section

variable (hash : HashFn) (p : Pending) (s : State)

@[simp] theorem completeWith_BS : (completeWith hash p s).BS = s.BS := rfl
@[simp] theorem completeWith_COUNT : (completeWith hash p s).COUNT = s.COUNT := rfl
@[simp] theorem completeWith_BUSY : (completeWith hash p s).BUSY = false := rfl
@[simp] theorem completeWith_DONE : (completeWith hash p s).DONE = true := rfl
@[simp] theorem completeWith_VALID : (completeWith hash p s).VALID =
    comparator ((hash (entOf p.PL.toNat) (entropy p.PL.toNat p.PM)).checksum (csOf p.PL.toNat)) (received p.PL.toNat p.PM) := rfl
@[simp] theorem completeWith_OVR : (completeWith hash p s).OVR = s.OVR := rfl
@[simp] theorem completeWith_ERR : (completeWith hash p s).ERR = s.ERR := rfl
@[simp] theorem completeWith_CSUM : (completeWith hash p s).CSUM =
    ((hash (entOf p.PL.toNat) (entropy p.PL.toNat p.PM)).checksum (csOf p.PL.toNat)).setWidth 8 := rfl
@[simp] theorem completeWith_RCVD : (completeWith hash p s).RCVD = (received p.PL.toNat p.PM).setWidth 8 := rfl
@[simp] theorem completeWith_CSLEN : (completeWith hash p s).CSLEN = BitVec.ofNat 4 (csOf p.PL.toNat) := rfl
@[simp] theorem completeWith_DIG : (completeWith hash p s).DIG =
    hash (entOf p.PL.toNat) (entropy p.PL.toNat p.PM) := rfl
@[simp] theorem completeWith_PEND : (completeWith hash p s).PEND = none := rfl
@[simp] theorem completeWith_inputs : (completeWith hash p s).inputs = s.inputs := rfl
@[simp] theorem completeWith_bus : (completeWith hash p s).bus = s.bus := rfl
@[simp] theorem completeWith_freeIndex : (completeWith hash p s).freeIndex = s.freeIndex := rfl

end

end Sys2Proof.Machine
end

