-- ==== Sys2Proof/Laws/Ops.lean ====
section
/-! SUPPORT. What the shared operations can do, said once. -/

namespace Sys2Proof.Machine

/-! ### Acceptance (R100) -/

theorem command_of_busy {s : State} (h : s.BUSY = true) (body : State → State) :
    command body s = overrun s := by simp [command, h]

theorem command_of_idle {s : State} (h : s.BUSY = false) (body : State → State) :
    command body s = body (accept s) := by simp [command, h]

/-- Everything a command word can do: dropped while BUSY = 1, or its body on the accepted state. -/
theorem command_cases (body : State → State) (s : State) :
    (s.BUSY = true ∧ command body s = overrun s) ∨
    (s.BUSY = false ∧ command body s = body (accept s)) := by
  cases h : s.BUSY
  · exact .inr ⟨rfl, command_of_idle h body⟩
  · exact .inl ⟨rfl, command_of_busy h body⟩

/-- What an accepted command does to the accepted state, for each constructor (R101 to R103, R131, R132). -/
def acceptedEffect : Instr → State → State
  | .nop, t => finish t
  | .clear, t => finish (clearAll t)
  | .append idx, t => if t.COUNT = 24 then raiseCmdError .full t else finish (appendWord idx t)
  | .validate, t => hashOrWordCount t.COUNT.toNat (firstWords t.BS t.COUNT.toNat) t
  | .tryWord idx, t =>
    hashOrWordCount (t.COUNT.toNat + 1) (withCandidate t.BS t.COUNT.toNat idx) t

theorem exec_eq_command (i : Instr) (s : State) :
    exec i s = .next (command (acceptedEffect i) s) := by
  cases i <;> rfl

/-- The word-count check starts a hash or raises WORD_COUNT, and does nothing else (R130, R202). -/
theorem hashOrWordCount_cases (L : Nat) (M : BitString) (s : State) :
    (lok L = true ∧ hashOrWordCount L M s = startHash L M s) ∨
    (lok L = false ∧ hashOrWordCount L M s = raiseCmdError .wordCount s) := by
  cases h : lok L
  · exact .inr ⟨rfl, by simp [hashOrWordCount, h]⟩
  · exact .inl ⟨rfl, by simp [hashOrWordCount, h]⟩

theorem commandWord_of_instr {v : Word} {i : Instr} (h : decode v = .instr i) (s : State) :
    commandWord v s = exec i s := by simp [commandWord, h]

theorem commandWord_of_illegal {v : Word} {why : Illegal} (h : decode v = .illegal why) (s : State) :
    commandWord v s = .next (command (raiseCmdError .illegal) s) := by
  simp [commandWord, h, execIllegal]

/-- Every command word gives a next state: dropped, the effect of the command it decodes to, or ILLEGAL. -/
theorem commandWord_cases (v : Word) (s : State) :
    (s.BUSY = true ∧ commandWord v s = .next (overrun s)) ∨
    (∃ i, decode v = .instr i ∧ s.BUSY = false ∧
      commandWord v s = .next (acceptedEffect i (accept s))) ∨
    (∃ why, decode v = .illegal why ∧ s.BUSY = false ∧
      commandWord v s = .next (raiseCmdError .illegal (accept s))) := by
  cases h : decode v with
  | instr i =>
    rw [commandWord_of_instr h, exec_eq_command]
    rcases command_cases (acceptedEffect i) s with ⟨hb, he⟩ | ⟨hb, he⟩
    · exact .inl ⟨hb, by rw [he]⟩
    · exact .inr (.inl ⟨i, rfl, hb, by rw [he]⟩)
  | illegal why =>
    rw [commandWord_of_illegal h]
    rcases command_cases (raiseCmdError .illegal) s with ⟨hb, he⟩ | ⟨hb, he⟩
    · exact .inl ⟨hb, by rw [he]⟩
    · exact .inr (.inr ⟨why, rfl, hb, by rw [he]⟩)

/-! ### The engine (R133) -/

theorem engineTurnWith_of_pend {s : State} {p : Pending} (hash : HashFn) (hb : s.BUSY = true)
    (hp : s.PEND = some p) : engineTurnWith hash s = completeWith hash p s := by
  simp [engineTurnWith, hb, hp]

theorem engineTurnWith_of_idle {s : State} (hash : HashFn) (hb : s.BUSY = false) :
    engineTurnWith hash s = s := by
  simp [engineTurnWith, hb]

/-- Everything the engine's turn can do: complete the pending hash, or nothing. -/
theorem engineTurnWith_cases (hash : HashFn) (s : State) :
    (∃ p, s.BUSY = true ∧ s.PEND = some p ∧ engineTurnWith hash s = completeWith hash p s) ∨
    ((s.BUSY = false ∨ s.PEND = none) ∧ engineTurnWith hash s = s) := by
  cases hb : s.BUSY with
  | false => exact .inr ⟨.inl rfl, engineTurnWith_of_idle hash hb⟩
  | true =>
    cases hp : s.PEND with
    | none => exact .inr ⟨.inr rfl, by simp [engineTurnWith, hb, hp]⟩
    | some p => exact .inl ⟨p, rfl, rfl, engineTurnWith_of_pend hash hb hp⟩

/-! ### The register map (R35, R55, R56) -/

/-- The map has exactly one register at each mapped offset. -/
theorem regAt_regOffset : ∀ r ∈ mappedRegs, regAt (regOffset r) = some r := by decide +kernel

theorem mem_mappedRegs (r : Reg) : r ∈ mappedRegs := by
  cases r with
  | cmd => exact List.mem_append_left _ (List.mem_append_left _ (by simp))
  | status => exact List.mem_append_left _ (List.mem_append_left _ (by simp))
  | check => exact List.mem_append_left _ (List.mem_append_left _ (by simp))
  | bits j =>
    exact List.mem_append_left _ (List.mem_append_right _ (List.mem_map_of_mem (List.mem_finRange j)))
  | digest j => exact List.mem_append_right _ (List.mem_map_of_mem (List.mem_finRange j))

theorem regAt_eq_some {off : Offset} {r : Reg} : regAt off = some r ↔ off = regOffset r := by
  constructor
  · intro h
    have hr : (regOffset r == off) = true := List.find?_some (p := fun r => regOffset r == off) h
    exact (eq_of_beq hr).symm
  · rintro rfl
    exact regAt_regOffset r (mem_mappedRegs r)

theorem aligned_regOffset (r : Reg) : aligned (regOffset r) = true := by
  have h : ∀ r ∈ mappedRegs, aligned (regOffset r) = true := by decide +kernel
  exact h r (mem_mappedRegs r)

/-- A read is refused exactly where there is no register. -/
theorem readError_eq_none {off : Offset} : readError off = none ↔ ∃ r, off = regOffset r := by
  constructor
  · intro h
    cases ha : aligned off <;> simp [readError, ha] at h
    cases hr : regAt off with
    | none => simp [hr] at h
    | some r => exact ⟨r, regAt_eq_some.mp hr⟩
  · rintro ⟨r, rfl⟩
    simp [readError, aligned_regOffset, regAt_eq_some.mpr rfl]

/-- A write is accepted by the bus at CMD only. -/
theorem writeError_eq_none {off : Offset} : writeError off = none ↔ off = 0x00 := by
  revert off; decide +kernel

theorem readResponse_regOffset (r : Reg) (s : State) :
    readResponse (regOffset r) s = ⟨regValue s r, false⟩ := by
  simp [readResponse, readError_eq_none.mpr ⟨r, rfl⟩, regAt_eq_some.mpr rfl]

theorem readResponse_of_error {off : Offset} (h : readError off ≠ none) (s : State) :
    readResponse off s = busRefused := by
  cases he : readError off with
  | none => exact absurd he h
  | some e => simp [readResponse, he]

/-! ### Transactions and events -/

/-- Everything a write of 4 bytes can do: refused off CMD, otherwise the word goes to the command decoder. -/
theorem memWrite_cases (off : Offset) (v : Word) (s : State) :
    (off ≠ 0x00 ∧ memWrite off v s = .next (respond busRefused s)) ∨
    (off = 0x00 ∧ memWrite off v s = commandWord v (ackWrite s)) := by
  cases h : writeError off with
  | none => exact .inr ⟨writeError_eq_none.mp h, by simp [memWrite, h]⟩
  | some e =>
    refine .inl ⟨fun h0 => ?_, by simp [memWrite, h]⟩
    rw [writeError_eq_none.mpr h0] at h
    cases h

theorem memWrite_cmd (v : Word) (s : State) : memWrite 0x00 v s = commandWord v (ackWrite s) := by
  rcases memWrite_cases 0x00 v s with ⟨h, -⟩ | ⟨-, h⟩
  · exact absurd rfl h
  · exact h

/-- Everything an event can do, when it gives a next state. -/
theorem takeEvent_cases {e : Event} {s t : State} (h : takeEvent e s = .next t) :
    (∃ out, t = respond out s) ∨
    (∃ v, e = .host (.write 0x00 4 v) ∧ commandWord v (ackWrite s) = .next t) ∨
    (e = .engine ∧ t = engineTurn s) ∨
    (∃ presented, e = .reset presented ∧ t = resetEdge s) := by
  cases e with
  | host x =>
    cases x with
    | read off n =>
      simp only [takeEvent, hostTransaction] at h
      split at h
      · simp only [memRead] at h
        injection h with h
        exact .inl ⟨_, h.symm⟩
      · cases h
    | write off n v =>
      simp only [takeEvent, hostTransaction] at h
      split at h
      · next hn =>
        rcases memWrite_cases off v s with ⟨-, hw⟩ | ⟨ho, hw⟩
        · rw [hw] at h
          injection h with h
          exact .inl ⟨_, h.symm⟩
        · rw [hw] at h
          subst hn ho
          exact .inr (.inl ⟨v, rfl, h⟩)
      · cases h
  | engine =>
    simp only [takeEvent] at h
    injection h with h
    exact .inr (.inr (.inl ⟨rfl, h.symm⟩))
  | reset x =>
    simp only [takeEvent] at h
    injection h with h
    exact .inr (.inr (.inr ⟨x, rfl, h.symm⟩))
  | idle =>
    simp only [takeEvent] at h
    injection h with h
    exact .inl ⟨_, h.symm⟩
  | otherMaster x => simp [takeEvent] at h
  | powerLoss => simp [takeEvent] at h

/-- Everything a step can do, when it gives a next state. `u` is the state with the event taken off the schedule. -/
theorem step_cases {s t : State} (h : step s = .next t) :
    ∃ u : State, (∃ rest, u = { s with inputs := rest }) ∧
      ((∃ out, t = respond out u) ∨
       (∃ v, s.inputs = .host (.write 0x00 4 v) :: u.inputs ∧
          commandWord v (ackWrite u) = .next t) ∨
       ((s.inputs = .engine :: u.inputs ∨ (s.inputs = [] ∧ s.BUSY = true)) ∧ t = engineTurn u) ∨
       (∃ presented, s.inputs = .reset presented :: u.inputs ∧ t = resetEdge u)) := by
  unfold step at h
  cases hi : s.inputs with
  | nil =>
    simp only [hi, unscheduled] at h
    refine ⟨s, ⟨s.inputs, rfl⟩, ?_⟩
    cases hb : s.BUSY <;> simp only [hb] at h <;> injection h with h
    · exact .inl ⟨_, h.symm⟩
    · exact .inr (.inr (.inl ⟨.inr ⟨rfl, rfl⟩, h.symm⟩))
  | cons e rest =>
    simp only [hi] at h
    refine ⟨{ s with inputs := rest }, ⟨rest, rfl⟩, ?_⟩
    rcases takeEvent_cases h with ho | ⟨v, rfl, hv⟩ | ⟨rfl, he⟩ | ⟨x, rfl, hr⟩
    · exact .inl ho
    · exact .inr (.inl ⟨v, rfl, hv⟩)
    · exact .inr (.inr (.inl ⟨.inl rfl, he⟩))
    · exact .inr (.inr (.inr ⟨x, rfl, hr⟩))

/-- A step whose next event is a CMD write gives its word to the command decoder (R56, R100). -/
theorem step_of_cmdWrite {s : State} {v : Word} {rest : List Event}
    (h : s.inputs = .host (.write 0x00 4 v) :: rest) :
    step s = commandWord v (ackWrite { s with inputs := rest }) := by
  unfold step
  rw [h]
  simp only [takeEvent, hostTransaction, if_true]
  exact memWrite_cmd v _

/-- A step whose next event is a read of 4 bytes drives the ports and changes nothing else (R55). -/
theorem step_of_read {s : State} {off : Offset} {rest : List Event}
    (h : s.inputs = .host (.read off 4) :: rest) :
    step s = .next { s with inputs := rest, bus := readResponse off s } := by
  unfold step
  rw [h]
  rfl

end Sys2Proof.Machine
end

