-- ==== Sys2Proof/Laws/Clocked.lean ====
section
/-! SUPPORT. What a clock edge can do, said once, for every value of the OPEN parameters. -/

namespace Sys2Proof.Machine

theorem runEvents_singleton (e : Event) (s : State) : runEvents [e] s = takeEvent e s := by
  simp only [runEvents]
  cases takeEvent e s <;> rfl

/-- What the pins present is always performed. -/
theorem takeEvent_busEvent (p : Pins) (s : State) : ∃ t, takeEvent (busEvent p) s = .next t := by
  unfold busEvent Pins.txn
  cases p.busSel
  · exact ⟨_, rfl⟩
  cases p.busWe
  · exact ⟨_, rfl⟩
  simp only [if_true, takeEvent, hostTransaction]
  rcases memWrite_cases p.busAddr p.busWdata s with ⟨-, h⟩ | ⟨-, h⟩ <;> rw [h]
  · exact ⟨_, rfl⟩
  rcases commandWord_cases p.busWdata (ackWrite s) with ⟨-, h⟩ | ⟨_, -, -, h⟩ | ⟨_, -, -, h⟩ <;>
    exact ⟨_, h⟩

theorem countdown_of_idle (P : Params) (s : State) {t : State} (left : Option Nat) (h : t.BUSY = false) :
    countdown P s t left = none := by
  simp [countdown, h]

theorem countdown_of_running (P : Params) {s t : State} (left : Option Nat) (hs : s.BUSY = true)
    (ht : t.BUSY = true) : countdown P s t left = left.map (· - 1) := by
  simp [countdown, hs, ht]

theorem countdown_of_start (P : Params) {s t : State} (left : Option Nat) (hs : s.BUSY = false)
    (ht : t.BUSY = true) : countdown P s t left = t.PEND.map fun p => P.hashLatency p.PL.toNat := by
  simp [countdown, hs, ht]

/-- An edge with `rst_n = 0` (R230 to R232). -/
theorem clockEdge_of_reset (P : Params) {p : Pins} (c : Clocked) (h : p.rstN = false) :
    clockEdge P p c = .next ⟨resetEdge c.block, none⟩ := by
  simp only [clockEdge, cycleEvents, h, runEvents_singleton, takeEvent, Bool.false_eq_true, if_false]
  rw [countdown_of_idle P _ _ rfl]

/-- An edge with `rst_n = 1`: what the pins present is performed first, and then the completion that is due (R210). -/
theorem clockEdge_of_running (P : Params) {p : Pins} {c : Clocked} {t : State} (h : p.rstN = true)
    (ht : takeEvent (busEvent p) c.block = .next t) :
    clockEdge P p c = .next
      (if c.left = some 1 then ⟨engineTurn t, countdown P c.block (engineTurn t) c.left⟩
       else ⟨t, countdown P c.block t c.left⟩) := by
  have he : takeEvent .engine t = .next (engineTurn t) := rfl
  by_cases hd : c.left = some 1
  · simp [clockEdge, cycleEvents, h, runEvents, ht, he, hd]
  · simp [clockEdge, cycleEvents, h, runEvents, ht, hd]

end Sys2Proof.Machine
end

