-- ==== Sys2Proof/Laws/Operands.lean ====
section
/-! SUPPORT. Word slots, packed values, the split and the checksum as numbers and as bits. -/

namespace Sys2Proof.Machine

set_option exponentiation.threshold 512

/-! ### Lengths (R6, R130) -/

theorem lok_iff_mem {L : Nat} : lok L = true ↔ L ∈ [12, 15, 18, 21, 24] := by
  simp [lok, lset]

theorem lok_false_iff {L : Nat} : lok L = false ↔ L ∉ [12, 15, 18, 21, 24] := by
  rw [← lok_iff_mem]; simp

/-- The arithmetic of a supported length (R6): `11·L = ENT + CS`, `4 ≤ CS ≤ 8`. -/
theorem length_table {L : Nat} (h : L ∈ [12, 15, 18, 21, 24]) :
    11 * L = entOf L + csOf L ∧ 4 ≤ csOf L ∧ csOf L ≤ 8 ∧ entOf L = 32 * (L / 3) ∧
      csOf L = L / 3 ∧ 12 ≤ L ∧ L ≤ 24 := by
  simp only [List.mem_cons, List.not_mem_nil, or_false] at h
  rcases h with rfl | rfl | rfl | rfl | rfl <;> simp [entOf, csOf]

/-! ### Word slots (R21, R103) -/

/-- Eleven ones, bit for bit. -/
theorem getLsbD_elevenOnes (n : Nat) : (0x7FF#264).getLsbD n = decide (n < 11) := by
  by_cases hn : n < 264
  · have h : ∀ m : Fin 264, (0x7FF#264).getLsbD m.val = decide (m.val < 11) := by decide +kernel
    exact h ⟨n, hn⟩
  · rw [BitVec.getLsbD_of_ge _ _ (by omega)]
    simp; omega

/-- A written slot holds the index, and every other bit keeps its value. -/
theorem getLsbD_slotWrite (bs : BitString) (k n : Nat) (idx : Index) :
    (slotWrite bs k idx).getLsbD n =
      if slotLow k ≤ n ∧ n < slotLow k + 11 ∧ n < 264 then idx.getLsbD (n - slotLow k)
      else bs.getLsbD n := by
  rw [slotWrite, BitVec.getLsbD_or, BitVec.getLsbD_and, BitVec.getLsbD_not, BitVec.getLsbD_shiftLeft,
    BitVec.getLsbD_shiftLeft, BitVec.getLsbD_setWidth, getLsbD_elevenOnes]
  by_cases h1 : n < 264
  · by_cases h2 : n < slotLow k
    · rw [if_neg (by omega)]; simp [h1, h2]
    · by_cases h3 : n < slotLow k + 11
      · rw [if_pos ⟨by omega, h3, h1⟩]
        have h4 : n - slotLow k < 11 := by omega
        have h5 : n - slotLow k < 264 := by omega
        simp [h1, h2, h4, h5]
      · rw [if_neg (by omega), BitVec.getLsbD_of_ge idx _ (by omega)]
        have h4 : ¬ n - slotLow k < 11 := by omega
        simp [h1, h2, h4]
  · rw [if_neg (by omega), BitVec.getLsbD_of_ge bs _ (by omega)]
    simp [h1]

/-- A slot of the 24 ends below the width. -/
theorem slotLow_bound (k : Nat) : slotLow k + 11 ≤ 264 := by
  unfold slotLow; omega

theorem slotRead_slotWrite (bs : BitString) (k : Nat) (idx : Index) :
    slotRead (slotWrite bs k idx) k = idx := by
  apply BitVec.eq_of_getLsbD_eq
  intro i hi
  have := slotLow_bound k
  rw [slotRead, BitVec.getLsbD_extractLsb', getLsbD_slotWrite, if_pos ⟨by omega, by omega, by omega⟩]
  simp [hi]

theorem slotRead_slotWrite_of_lt (bs : BitString) {k j : Nat} (idx : Index) (hk : k < 24) (h : j < k) :
    slotRead (slotWrite bs k idx) j = slotRead bs j := by
  apply BitVec.eq_of_getLsbD_eq
  intro i hi
  rw [slotRead, slotRead, BitVec.getLsbD_extractLsb', BitVec.getLsbD_extractLsb', getLsbD_slotWrite,
    if_neg (by simp only [slotLow]; omega)]

/-! ### Packed values (R8, R131, R132) -/

theorem toNat_firstWords (bs : BitString) (n : Nat) :
    (firstWords bs n).toNat = bs.toNat / 2 ^ (264 - 11 * n) := by
  simp [firstWords, Nat.shiftRight_eq_div_pow]

theorem toNat_firstWords_lt (bs : BitString) {n : Nat} (h : n ≤ 24) :
    (firstWords bs n).toNat < 2 ^ (11 * n) := by
  rw [toNat_firstWords]
  apply Nat.div_lt_of_lt_mul
  rw [← pow_add, show 264 - 11 * n + 11 * n = 264 by omega]
  exact bs.isLt

/-- A value with eleven bits of room, followed by an index. -/
theorem toNat_shift_or (b : BitString) (idx : Index) (h : b.toNat < 2 ^ 253) :
    ((b <<< 11) ||| idx.setWidth 264).toNat = b.toNat * 2 ^ 11 + idx.toNat := by
  have hi : idx.toNat < 2 ^ 11 := idx.isLt
  rw [BitVec.toNat_or, BitVec.toNat_shiftLeft, BitVec.toNat_setWidth, Nat.shiftLeft_eq,
    Nat.mod_eq_of_lt (show idx.toNat < 2 ^ 264 by omega), Nat.mod_eq_of_lt (by omega),
    Nat.mul_comm, ← Nat.two_pow_add_eq_or_of_lt hi]

theorem toNat_withCandidate (bs : BitString) {n : Nat} (idx : Index) (h : n ≤ 23) :
    (withCandidate bs n idx).toNat = bs.toNat / 2 ^ (264 - 11 * n) * 2 ^ 11 + idx.toNat := by
  have h1 := toNat_firstWords_lt bs (n := n) (by omega)
  have h2 : 2 ^ (11 * n) ≤ 2 ^ 253 := Nat.pow_le_pow_right (by omega) (by omega)
  rw [withCandidate, toNat_shift_or _ _ (by omega), toNat_firstWords]

theorem toNat_withCandidate_lt (bs : BitString) {n : Nat} (idx : Index) (h : n ≤ 23) :
    (withCandidate bs n idx).toNat < 2 ^ (11 * (n + 1)) := by
  have h1 := toNat_firstWords_lt bs (n := n) (by omega)
  have hi : idx.toNat < 2 ^ 11 := idx.isLt
  rw [toNat_firstWords] at h1
  rw [toNat_withCandidate bs idx h, show 11 * (n + 1) = 11 * n + 11 by omega, pow_add]
  nlinarith

theorem pack_append (is : List Index) (i : Index) :
    pack (is ++ [i]) = (pack is <<< 11) ||| i.setWidth 264 := by
  simp [pack]

theorem pack_toNat_lt (is : List Index) (h : is.length ≤ 24) :
    (pack is).toNat < 2 ^ (11 * is.length) := by
  induction is using List.reverseRecOn with
  | nil => simp [pack]
  | append_singleton is i ih =>
    simp only [List.length_append, List.length_singleton] at h ⊢
    have h1 := ih (by omega)
    have h2 : 2 ^ (11 * is.length) ≤ 2 ^ 253 := Nat.pow_le_pow_right (by omega) (by omega)
    have hi : i.toNat < 2 ^ 11 := i.isLt
    rw [pack_append, toNat_shift_or _ _ (by omega), show 11 * (is.length + 1) = 11 * is.length + 11 by omega,
      pow_add]
    nlinarith

theorem pack_append_toNat (is : List Index) (i : Index) (h : is.length < 24) :
    (pack (is ++ [i])).toNat = (pack is).toNat * 2 ^ 11 + i.toNat := by
  have h1 := pack_toNat_lt is (by omega)
  have h2 : 2 ^ (11 * is.length) ≤ 2 ^ 253 := Nat.pow_le_pow_right (by omega) (by omega)
  rw [pack_append, toNat_shift_or _ _ (by omega)]

/-! ### The split and the checksum (R134, R170) -/

theorem toNat_received (L : Nat) (M : BitString) :
    (received L M).toNat = M.toNat % 2 ^ csOf L := by
  simp [received]

theorem toNat_entropy (L : Nat) (M : BitString) :
    (entropy L M).toNat = M.toNat / 2 ^ csOf L % 2 ^ entOf L := by
  simp [entropy, Nat.shiftRight_eq_div_pow]

/-- The entropy of a packed value that fits its length is the value shifted right by CS. -/
theorem entropy_eq_ofNat (L : Nat) (M : BitString) :
    entropy L M = BitVec.ofNat (entOf L) (M.toNat / 2 ^ csOf L) := by
  apply BitVec.eq_of_toNat_eq
  rw [toNat_entropy, BitVec.toNat_ofNat]

theorem toNat_checksum (d : Digest) {cs : Nat} (h : cs ≤ 256) :
    (d.checksum cs).toNat = d.value.toNat / 2 ^ (256 - cs) := by
  rw [Digest.checksum, BitVec.extractLsb'_toNat, Nat.shiftRight_eq_div_pow, Nat.mod_eq_of_lt]
  apply Nat.div_lt_of_lt_mul
  rw [← pow_add, show 256 - cs + cs = 256 by omega]
  exact d.value.isLt

/-- The comparator compares the two checksums as numbers (R135). -/
theorem comparator_iff {cs : Nat} (c r : BitVec cs) : comparator c r = true ↔ c.toNat = r.toNat := by
  simp [comparator, BitVec.toNat_inj]

end Sys2Proof.Machine
end

