-- ==== Sys2Proof/Laws/PerInstr.lean ====
section
/-! SUPPORT. The family of lemmas about every command as syntax: its word fits its row of the opcode map and keeps the
reserved fields zero (30_encoding.md R81, R83). -/

namespace Sys2Proof.Laws.MatchesRow

/-- The command is well formed, its word is legal by the rows of R83, and RSV0 and RSV1 of the word are zero. -/
def Statement (i : Instr) : Prop :=
  i.wellFormed = true ∧ legalWord (encode i) = true ∧ rsv0Field (encode i) = 0 ∧
    rsv1Field (encode i) = 0

theorem nop : Statement .nop := by unfold Statement; decide

theorem clear : Statement .clear := by unfold Statement; decide

theorem append (idx : Index) : Statement (.append idx) := by
  refine ⟨rfl, ?_⟩
  revert idx
  decide +kernel

theorem validate : Statement .validate := by unfold Statement; decide

theorem tryWord (idx : Index) : Statement (.tryWord idx) := by
  refine ⟨rfl, ?_⟩
  revert idx
  decide +kernel

end Sys2Proof.Laws.MatchesRow
end

