-- ==== Sys2Proof/Tests/Slice0.lean ====
section
/-! SUPPORT. Tests against the vectors of 95_test_vectors.md and the examples of the rules, and a witness for the hypotheses of
every statement that has some. Expected values are copied from the spec, never from the model. -/

namespace Sys2Proof.Tests

open Sys2Proof.Machine

set_option exponentiation.threshold 512
-- One theorem at a time: many kernel evaluations at once take many threads and their stacks.
set_option Elab.async false

/-! ### Builders -/

/-- The state of a next outcome; reset for any other. -/
def nextOf : Host.Outcome State Fault Refusal → State
  | .next t => t
  | _ => .reset

/-- The state after LOAD of the indices (R89, R104). -/
def loaded (is : List Index) : State :=
  { State.reset with
    BS := pack is <<< (264 - 11 * is.length), COUNT := BitVec.ofNat 5 is.length, DONE := true }

/-- A state in which the packed value `M` of `L` words is being hashed. -/
def hashing (L : Nat) (M : BitString) : State :=
  startHash L M { loaded (List.replicate L 0) with DONE := false }

/-- The state with a schedule. -/
def scheduled (s : State) (es : List Event) : State := { s with inputs := es }

/-- The next step gives a next state with a property. -/
def stepsTo (s : State) (p : State → Bool) : Bool :=
  match step s with
  | .next t => p t
  | _ => false

/-- A CMD write of a word. -/
def write (v : Word) : Event := .host (.write 0x00 4 v)

/-! ### Decoding (R81, R83; words written out from R81's fields) -/

theorem test_decode_nop : decode 0b00000000000000000000000000000000 = .instr .nop := by decide

theorem test_decode_clear : decode 0b00000000000000000000000000000001 = .instr .clear := by decide

/-- RSV1 00000, IDX 11111111111, RSV0 000000000000, OP 0010: APPEND 2047 (R83). -/
theorem test_decode_append : decode 0b00000111111111110000000000000010 = .instr (.append 2047) := by
  decide

theorem test_decode_validate : decode 0b00000000000000000000000000000011 = .instr .validate := by decide

/-- RSV1 00000, IDX 00001100110, RSV0 000000000000, OP 0100: TRY 102 (R83). -/
theorem test_decode_try : decode 0b00000000011001100000000000000100 = .instr (.tryWord 102) := by decide

/-- The nine words of L2-7. -/
theorem test_decode_illegal :
    decode 0x00000005 = .illegal .reservedOpcode ∧ decode 0x0000000f = .illegal .reservedOpcode ∧
    decode 0x00000010 = .illegal .reservedBits ∧ decode 0x00010000 = .illegal .nonzeroIndex ∧
    decode 0x00010001 = .illegal .nonzeroIndex ∧ decode 0x00010003 = .illegal .nonzeroIndex ∧
    decode 0x08000002 = .illegal .reservedBits ∧ decode 0x80000004 = .illegal .reservedBits ∧
    decode 0x00008002 = .illegal .reservedBits := by decide

/-- P4: the words of APPEND 1019 and TRY 2040. -/
theorem test_encode : encode (.append 1019) = 0x03fb0002 ∧ encode (.tryWord 2040) = 0x07f80004 := by
  decide

theorem test_decodeTableWord :
    decodeTableWord 32 0x07ff0002 = some (.append 2047) ∧ decodeTableWord 32 0x00008002 = none := by
  decide

/-- The rows of R83 do not overlap. -/
theorem test_rows_disjoint :
    opcodeRows.Pairwise fun r q => (r.pattern ^^^ q.pattern) &&& (r.mask &&& q.mask) ≠ 0 := by
  decide

/-! ### WellFormed: an ill-formed term for each check -/

theorem test_wf_byte_read : (Txn.read 0x04 1).wellFormed = false := by decide

theorem test_wf_half_word_write : (Txn.write 0x00 2 3).wellFormed = false := by decide

theorem test_wf_narrow_event : (Event.host (.read 0x04 8)).wellFormed = false := by decide

theorem test_wf_other_master : (Event.otherMaster (.read 0x04 4)).wellFormed = false := by decide

theorem test_wf_power_loss : Event.powerLoss.wellFormed = false := by decide

theorem test_wf_illegal_words :
    [0x00000005, 0x00000010, 0x00010000, 0x00010003, 0x08000002, 0x80000004].all
      (fun v => !legalWord v) = true := by decide

/-! ### Commands (L2-1, L2-3, L2-4, L2-7, L2-8) -/

/-- B12: STATUS c06, then NOP gives c02. -/
theorem test_nop_clears_valid :
    let s := { loaded (List.replicate 12 0) with VALID := true }
    statusWord s = 0x00000c06 ∧ statusWord (nextOf (exec .nop s)) = 0x00000c02 := by decide +kernel

/-- B9 and L2-8 step 6: CLEAR drops words, OVR and ERR. -/
theorem test_clear :
    let s := { loaded (List.replicate 24 2047) with OVR := true, ERR := .full, CSUM := 3, CSLEN := 4 }
    let t := nextOf (exec .clear s)
    statusWord t = 0x00000002 ∧ checkWord t = 0 ∧ bitsWord t.BS 8 = 0 := by decide +kernel

/-- B2: APPEND 2047 from reset. -/
theorem test_append_first :
    let t := nextOf (exec (.append 2047) .reset)
    statusWord t = 0x00000102 ∧ bitsWord t.BS 0 = 0xffe00000 := by decide +kernel

/-- B4: the third word crosses from BITS0 into BITS1. B7: the 25th is FULL. -/
theorem test_append_crossing_and_full :
    let t := nextOf (exec (.append 1024) (loaded [2047, 1]))
    let f := nextOf (exec (.append 1) (loaded (List.replicate 24 2047)))
    bitsWord t.BS 0 = 0xffe00600 ∧ bitsWord t.BS 1 = 0 ∧ statusWord t = 0x00000302 ∧
      statusWord f = 0x00001822 ∧ bitsWord f.BS 8 = 0xff000000 := by decide +kernel

/-- W1, W3, W4: VALIDATE at COUNT 0 and 13, and at 24. -/
theorem test_validate_counts :
    statusWord (nextOf (exec .validate .reset)) = 0x00000012 ∧
    statusWord (nextOf (exec .validate (loaded (List.replicate 13 0)))) = 0x00000d12 ∧
    statusWord (nextOf (exec .validate (loaded (List.replicate 24 0)))) = 0x00001801 := by decide +kernel

/-- L1-4: the corrected and the literal sequence. -/
theorem test_validate_known_vector :
    let ok := engineTurn (nextOf (exec .validate (loaded (List.replicate 11 0 ++ [3]))))
    let no := engineTurn (nextOf (exec .validate (loaded (List.replicate 12 0))))
    statusWord ok = 0x00000c06 ∧ checkWord ok = 0x00040303 ∧ bitsWord ok.BS 4 = 0x30000000 ∧
      statusWord no = 0x00000c02 ∧ checkWord no = 0x00040003 := by decide +kernel

/-- T1, T2: TRY 102 and 103 behind 23 zeros. -/
theorem test_try_candidates :
    let t := engineTurn (nextOf (exec (.tryWord 102) (loaded (List.replicate 23 0))))
    let u := engineTurn (nextOf (exec (.tryWord 103) t))
    statusWord t = 0x00001706 ∧ checkWord t = 0x00086666 ∧ statusWord u = 0x00001702 ∧
      checkWord u = 0x00086766 := by decide +kernel

/-- W6 to W8: TRY at COUNT 11, 13 and 24. -/
theorem test_try_counts :
    statusWord (nextOf (exec (.tryWord 0) (loaded (List.replicate 11 0)))) = 0x00000b01 ∧
    statusWord (nextOf (exec (.tryWord 0) (loaded (List.replicate 13 0)))) = 0x00000d12 ∧
    statusWord (nextOf (exec (.tryWord 0) (loaded (List.replicate 24 0)))) = 0x00001812 := by
  decide +kernel

/-- L2-7: ILLEGAL from reset, and before FULL. -/
theorem test_illegal_word :
    statusWord (nextOf (commandWord 0x00000005 .reset)) = 0x00000032 ∧
    statusWord (nextOf (commandWord 0x00008002
      { loaded (List.replicate 24 0) with OVR := true })) = 0x0000183a := by decide +kernel

/-- L2-8 steps 3 and 4: a dropped APPEND, and the completion after it. -/
theorem test_overrun :
    let s := nextOf (exec (.append 7) (hashing 12 0))
    statusWord s = 0x00000c09 ∧ checkWord s = 0 ∧ statusWord (engineTurn s) = 0x00000c0a ∧
      checkWord (engineTurn s) = 0x00040003 := by decide +kernel

/-! ### Longer mnemonics (L2-2) -/

/-- The mixed entropy 00 01 .. 13, L = 15. -/
theorem test_validate_fifteen :
    let s := loaded [0, 64, 1030, 64, 643, 28, 257, 266, 88, 771, 540, 241, 8, 1096, 636]
    let t := engineTurn (nextOf (exec .validate s))
    statusWord t = 0x00000f06 ∧ checkWord t = 0x00051c1c ∧ bitsWord t.BS 4 = 0x10111213 ∧
      bitsWord t.BS 5 = 0xe0000000 ∧ t.DIG.h0 = 0xe7aebf57 := by decide +kernel

/-- The mixed entropy 00 01 .. 1b, L = 21. -/
theorem test_validate_twenty_one :
    let s := loaded [0, 64, 1030, 64, 643, 28, 257, 266, 88, 771, 540, 241, 8, 1096, 610, 1045, 176,
      1478, 50, 417, 1518]
    let t := engineTurn (nextOf (exec .validate s))
    statusWord t = 0x00001506 ∧ checkWord t = 0x00076e6e ∧ bitsWord t.BS 7 = 0xdc000000 ∧
      t.DIG.h7 = 0x72c0971a := by decide +kernel

/-! ### Steps, the bus and reset (L2-8, L2-9, L2-10) -/

/-- A CMD write runs its command: APPEND 2047 as the first step after reset. -/
theorem test_step_append :
    stepsTo (State.reset.withFetchWord 32 0x07ff0002) (fun t => statusWord t == 0x00000102) = true := by
  decide +kernel

/-- RD CMD; RD 0x06; RD 0x0C; RD 0x34; RD 0x5C; RD 0x60. -/
theorem test_reads :
    let s := { State.reset with DIG := ⟨1, 2, 3, 4, 5, 6, 7, 0x28ec37bb⟩ }
    readResponse 0x00 s = ⟨0, false⟩ ∧ readResponse 0x06 s = ⟨0, true⟩ ∧
    readResponse 0x0c s = ⟨0, true⟩ ∧ readResponse 0x34 s = ⟨0, true⟩ ∧
    readResponse 0x5c s = ⟨0x28ec37bb, false⟩ ∧ readResponse 0x60 s = ⟨0, true⟩ := by decide +kernel

/-- WR 0x04, WR 0x30 and WR 0x01: refused, and no VALIDATE runs. -/
theorem test_refused_writes :
    [(0x04 : Offset), 0x30, 0x01].all (fun off =>
      stepsTo (scheduled (loaded (List.replicate 12 0)) [.host (.write off 4 3)])
        (fun t => t.bus == ⟨0, true⟩ && statusWord t == 0x00000c02)) = true := by decide +kernel

/-- Z2 and Z3: a reset edge during a hash, with a CMD write presented. -/
theorem test_reset_edge :
    stepsTo (scheduled (hashing 12 0) [.reset (some (.write 0x00 4 0x00000002))])
      (fun t => t.bus == ⟨0, false⟩ && statusWord t == 0 && t.PEND == none) = true := by decide +kernel

/-- U5, U6, U1: what is refused by name. -/
theorem test_refusals :
    step (scheduled .reset [.host (.read 0x04 1)]) = .refused (.accessWidth 1) ∧
    step (scheduled .reset [.otherMaster (.read 0x04 4)]) = .refused .otherMaster ∧
    step (scheduled .reset [.powerLoss]) = .refused .unresetBlock := ⟨rfl, rfl, rfl⟩

/-! ### The assembler (R87 to R89) -/

theorem test_assemble_command :
    assembleLine ['a', 'p', 'P', 'E', 'N', 'D', ' ', '0', 'x', '7', 'f', 'F', ' ', ';', 'c'] =
      some (.command (.append 2047)) ∧
    assembleLine ['T', 'R', 'Y', ' ', '2', '0', '4', '8'] = none := by decide +kernel

theorem test_assemble_bus_lines :
    assembleLine ['R', 'D', ' ', ' ', 'B', 'I', 'T', 'S', '8', ' ', '-', '>', ' ', 'b'] =
      some (.rd (.bits 8) ['b']) ∧
    assembleLine ['W', 'R', ' ', '0', 'x', '0', '4', ',', ' ', '0'] = some (.wr 0x04 0) := by
  decide +kernel

/-! ### Witnesses: the encoding and the step -/

/-- DecodeEncodeRoundTrip. -/
theorem witness_wellFormed : (Instr.append 2047).wellFormed = true := by decide

/-- EncodeOfDecodedWord, StepRunsDecodedCommand. -/
theorem witness_decoded :
    decode 0x07ff0002 = .instr (.append 2047) ∧
    (scheduled .reset [write 0x07ff0002]).inputs = write 0x07ff0002 :: [] := by decide

/-- IllegalWordRaisesIllegal. -/
theorem witness_illegal :
    decode 0x80000004 = .illegal .reservedBits ∧ State.reset.BUSY = false ∧
    (scheduled .reset [write 0x80000004]).inputs = write 0x80000004 :: [] := by decide

/-- OverrunIsSticky: a dropped write sets OVR. -/
theorem witness_overrun :
    stepsTo (scheduled (hashing 12 0) [write 1]) (fun t => t.OVR) = true ∧
    (hashing 12 0).BUSY = true ∧ (hashing 12 0).OVR = false := by decide +kernel

/-- OverrunIsSticky: an accepted CLEAR and a reset clear it. -/
theorem witness_overrun_cleared :
    stepsTo (scheduled { State.reset with OVR := true } [write 1]) (fun t => !t.OVR) = true ∧
    stepsTo (scheduled { State.reset with OVR := true } [.reset none]) (fun t => !t.OVR) = true ∧
    acceptsWord 1 (scheduled { State.reset with OVR := true } [write 1]) ∧
    takesReset (scheduled { State.reset with OVR := true } [.reset none]) :=
  ⟨by decide +kernel, by decide +kernel, ⟨rfl, [], rfl⟩, ⟨none, [], rfl⟩⟩

/-! ### Witnesses: the commands -/

/-- NopMeaning, ClearMeaning, CommandCompletesOrHashes: BUSY = 0 and BUSY = 1, and a word of OP 0 that is no NOP. -/
theorem witness_busy : State.reset.BUSY = false ∧ (hashing 12 0).BUSY = true ∧
    (0x00010000 : Word).extractLsb' 0 4 = 0 ∧ (0x00010000 : Word) ≠ 0 := by decide

/-- ClearMeaning: a command clears OVR. -/
theorem witness_clear_ovr :
    ∃ t, exec .clear { State.reset with OVR := true } = .next t ∧ t.OVR = false := ⟨_, rfl, rfl⟩

/-- AppendMeaning: the bounds of COUNT. -/
theorem witness_append :
    (loaded []).COUNT.toNat < 24 ∧ (loaded (List.replicate 23 0)).COUNT.toNat = 23 ∧
    (loaded (List.replicate 24 0)).COUNT = 24 ∧ (loaded (List.replicate 24 0)).BUSY = false := by decide

/-- ValidateMeaning: both clauses at their ends. -/
theorem witness_validate :
    (loaded (List.replicate 12 0)).COUNT.toNat ∈ [12, 15, 18, 21, 24] ∧
    (loaded (List.replicate 24 0)).COUNT.toNat ∈ [12, 15, 18, 21, 24] ∧
    (loaded []).COUNT.toNat ∉ [12, 15, 18, 21, 24] ∧
    (loaded (List.replicate 23 0)).COUNT.toNat ∉ [12, 15, 18, 21, 24] := by decide

/-- TryMeaning, TryEquivalence, CompletionCount, ScanRecordsExactlyTheCompletions: both clauses at their ends, and the
last value of the leading bits. -/
theorem witness_try :
    (loaded (List.replicate 11 0)).COUNT.toNat + 1 ∈ [12, 15, 18, 21, 24] ∧
    (loaded (List.replicate 23 0)).COUNT.toNat + 1 ∈ [12, 15, 18, 21, 24] ∧
    (loaded []).COUNT.toNat + 1 ∉ [12, 15, 18, 21, 24] ∧
    (loaded (List.replicate 24 0)).COUNT.toNat + 1 ∉ [12, 15, 18, 21, 24] ∧
    (loaded (List.replicate 11 0)).BUSY = false ∧ (127 : Nat) < 2 ^ (11 - 12 / 3) := by decide

/-- ChecksumSensitivity: 23 zeros and 102 is valid (L2-6), 103 changes a checksum bit only. -/
theorem witness_sensitivity :
    tryVerdict hashWrap (loaded (List.replicate 23 0)) 102 = true ∧
    (103 : Index).toNat / 2 ^ 8 = (102 : Index).toNat / 2 ^ 8 ∧
    tryVerdict hashWrap (loaded (List.replicate 23 0)) 492 = true := by decide +kernel

/-! ### Witnesses: the engine -/

/-- The invariants do not see the model's own fields. -/
theorem stateInv_scheduled {s : State} (h : StateInv s) (es : List Event) :
    StateInv (scheduled s es) :=
  ⟨h.count_le, h.tail_zero, h.busy_iff_pend, h.busy_flags, h.valid_flags, h.no_results, h.results_fit,
   h.pend_fits⟩

/-- A busy state that meets the invariants: ComparatorVerdict, ResultWriters, ResultsStaleWhileBusy,
StartedHashCompletes, FinishedRunIsStable, HashTakesItsLatency, SameCycleHostComesFirst. -/
theorem witness_busy_inv : StateInv (hashing 12 3) ∧ (hashing 12 3).PEND = some ⟨12, 3⟩ := by
  refine ⟨⟨by decide, by decide, by decide, fun _ => by decide, by decide, fun _ => by decide,
    fun h => absurd rfl h, ?_⟩, by decide⟩
  intro p h
  cases h
  decide

/-- EngineCompletes: the shortest and the longest mnemonic, the latter with its greatest packed value. -/
theorem witness_engine :
    (12 : BitVec 5).toNat ∈ [12, 15, 18, 21, 24] ∧ (3 : BitString).toNat < 2 ^ (11 * 12) ∧
    (24 : BitVec 5).toNat ∈ [12, 15, 18, 21, 24] ∧
    (BitVec.allOnes 264).toNat < 2 ^ (11 * (24 : BitVec 5).toNat) ∧
    (hashing 24 (BitVec.allOnes 264)).PEND = some ⟨24, BitVec.allOnes 264⟩ := by decide +kernel

/-- ResultWriters, ValidOnlyFromCompletion: a completion that changes the results and raises VALID, scheduled or
owed. -/
theorem witness_completion :
    stepsTo (scheduled (hashing 12 3) [.engine]) (fun t => t.VALID && t.CSLEN == 4) = true ∧
    stepsTo (hashing 12 3) (fun t => t.VALID && t.CSLEN == 4) = true ∧
    takesCompletion (scheduled (hashing 12 3) [.engine]) ∧ takesCompletion (hashing 12 3) :=
  ⟨by decide +kernel, by decide +kernel, ⟨rfl, .inr ⟨[], rfl⟩⟩, ⟨rfl, .inl rfl⟩⟩

/-- ValidOnlyFromCompletion: an accepted word. -/
theorem witness_accepted : acceptsWord 0 (scheduled .reset [write 0]) := ⟨rfl, [], rfl⟩

/-- ResultsDependOnPendingOnly: two states with one PEND and different histories. -/
theorem witness_same_pend :
    let s := hashing 12 3
    let t := { s with OVR := true, CSUM := 9, RCVD := 1, CSLEN := 5, BS := 0 }
    s.BUSY = true ∧ t.BUSY = true ∧ s.PEND ≠ none ∧ s.PEND = t.PEND ∧ s ≠ t := by decide

/-! ### Witnesses: the hash wrapper -/

/-- MessageBytesAreEntropy, PaddedBlockWords, ScheduleRecurrence, ChecksumIsTopOfDigest, BitsRegistersShowTheStream:
the ends of their ranges. -/
theorem witness_ranges :
    8 ∣ 128 ∧ 8 ∣ 256 ∧ 256 ∈ [128, 160, 192, 224, 256] ∧ (15 : Nat) < 16 ∧
    (24 : Nat) ∈ [12, 15, 18, 21, 24] ∧ ((7 : Fin 9) : Nat) < entOf 24 / 32 ∧
    ((3 : Fin 9) : Nat) < entOf 12 / 32 ∧ 16 ≤ 63 ∧ 63 < 64 ∧ 4 ≤ 4 ∧ 8 ≤ 8 ∧
    31 < entOf 24 / 8 ∧ ((7 : Fin 9) : Nat) = 31 / 4 := by decide

/-- L2-11: the padded blocks of 16 zero bytes and of 32 bytes ff. -/
theorem test_padding :
    blockWord (padBlock 128 0) 4 = 0x80000000 ∧ blockWord (padBlock 128 0) 15 = 0x00000080 ∧
    blockWord (padBlock 256 (BitVec.allOnes 256)) 7 = 0xffffffff ∧
    blockWord (padBlock 256 (BitVec.allOnes 256)) 8 = 0x80000000 ∧
    blockWord (padBlock 256 (BitVec.allOnes 256)) 15 = 0x00000100 := by decide +kernel

/-! ### Witnesses: the bit string, the invariants and reset -/

/-- BuilderRefinesWordList, WordsReadBack: the empty list, one word, and the full length. -/
theorem witness_represents :
    Represents [] .reset ∧ Represents [2047] (loaded [2047]) ∧
    Represents (List.replicate 24 2047) (loaded (List.replicate 24 2047)) :=
  ⟨⟨rfl, by decide⟩, ⟨by decide, rfl⟩, ⟨by decide, rfl⟩⟩

/-- BuilderRefinesWordList: an APPEND extends the list, and is refused at 24 words. -/
theorem witness_words_after :
    wordsAfterStep (scheduled (loaded [2047]) [write 0x00010002]) [2047] = [2047, 1] ∧
    wordsAfterStep (scheduled (loaded [2047]) [write 0x00000001]) [2047] = [] ∧
    stepsTo (scheduled (loaded [2047]) [write 0x00010002]) (fun t => t.COUNT == 2) = true ∧
    wordsAfterStep (scheduled (loaded (List.replicate 24 2047)) [write 0x00010002])
      (List.replicate 24 2047) = List.replicate 24 2047 := by decide +kernel

/-- WordsAreAppendOnly, InvariantKeptByStep: a state with words that meets the invariants. -/
theorem witness_loaded_inv : StateInv (loaded [2047]) := by
  refine ⟨by decide, by decide, by decide, ?_, ?_, fun _ => by decide,
    fun h => absurd rfl h, ?_⟩
  · intro h
    cases h
  · intro h
    cases h
  · intro p h
    cases h

/-- WordsAreAppendOnly: a step that is neither a reset, nor an accepted CLEAR, nor an APPEND; and one that is an
accepted CLEAR. -/
theorem witness_append_only :
    stepsTo (scheduled (loaded [2047]) [write 0]) (fun t => t.COUNT == 1) = true ∧
    ¬ takesReset (scheduled (loaded [2047]) [write 0]) ∧
    ¬ acceptsWord 1 (scheduled (loaded [2047]) [write 0]) ∧
    (∀ idx, ¬ acceptsWord (encode (.append idx)) (scheduled (loaded [2047]) [write 0])) ∧
    acceptsWord 1 (scheduled (loaded [2047]) [write 1]) := by
  refine ⟨by decide +kernel, ?_, ?_, ?_, ⟨rfl, [], rfl⟩⟩
  · rintro ⟨_, _, h⟩
    cases h
  · rintro ⟨_, _, h⟩
    exact absurd h (by simp [scheduled, write])
  · rintro idx ⟨_, _, h⟩
    simp only [scheduled, write, List.cons.injEq, Event.host.injEq, Txn.write.injEq, true_and] at h
    have hn : ∀ i : Index, (0 : Word) ≠ encode (.append i) := by decide +kernel
    exact hn idx h.1

/-- InvariantKeptByStep, InvariantAtReset: the invariants fail in a state with a bit after the last word. -/
theorem witness_not_inv : ¬ StateInv { State.reset with BS := 1 } := fun h =>
  absurd h.tail_zero (by decide)

/-- ResetEdgeClearsEverything. -/
theorem witness_reset :
    (scheduled (hashing 12 0) [.reset none, .engine]).inputs = .reset none :: [.engine] := rfl

/-! ### Witnesses: the register bus -/

/-- ReadsReturnRegisters, BusErrorCauses: each clause at the ends of its range. -/
theorem witness_read_clauses :
    (0x10 : Offset).toNat = 0x10 + 4 * ((0 : Fin 9) : Nat) ∧
    (0x30 : Offset).toNat = 0x10 + 4 * ((8 : Fin 9) : Nat) ∧
    (0x40 : Offset).toNat = 0x40 + 4 * ((0 : Fin 8) : Nat) ∧
    (0x5c : Offset).toNat = 0x40 + 4 * ((7 : Fin 8) : Nat) ∧
    readError 0x01 = some .misaligned ∧ readError 0x0c = some .unmapped ∧
    readError 0x34 = some .unmapped ∧ readError 0x3c = some .unmapped ∧
    readError 0x60 = some .unmapped ∧ readError 0xfc = some .unmapped ∧ readError 0x30 = none := by
  decide +kernel

/-- ReadsReturnRegisters, WritesReachOnlyCmd: a scheduled read and scheduled writes at and off CMD. -/
theorem witness_scheduled_accesses :
    (scheduled .reset [.host (.read 0x30 4)]).inputs = .host (.read 0x30 4) :: [] ∧
    (scheduled .reset [write 0]).inputs = .host (.write 0x00 4 0) :: [] ∧
    (scheduled .reset [.host (.write 0x04 4 0)]).inputs = .host (.write 0x04 4 0) :: [] :=
  ⟨rfl, rfl, rfl⟩

/-- BusErrorCauses: the writes. -/
theorem witness_write_clauses :
    writeError 0x00 = none ∧ writeError 0x03 = some .misaligned ∧ writeError 0x0c = some .unmapped ∧
    writeError 0x60 = some .unmapped ∧ writeError 0x04 = some .readOnly ∧
    writeError 0x08 = some .readOnly ∧ writeError 0x10 = some .readOnly ∧
    writeError 0x30 = some .readOnly ∧ writeError 0x40 = some .readOnly ∧
    writeError 0x5c = some .readOnly := by decide +kernel

/-- PendingIsHidden: two states that differ in PEND only. -/
theorem witness_hidden :
    let s' := { State.reset with PEND := some ⟨12, 3⟩ }
    s' = { State.reset with PEND := s'.PEND } ∧ s' ≠ State.reset := by decide

/-! ### Witnesses: runs -/

/-- OnlyOutsideEventsStop: each clause. -/
theorem witness_events :
    State.reset.inputs = [] ∧ Event.idle.wellFormed = true ∧
    (Event.host (.read 0x04 4)).wellFormed = true ∧ (Txn.read 0x04 3).wellFormed = false ∧
    (scheduled .reset [.powerLoss]).inputs = .powerLoss :: [] := by decide

/-- ResultsStaleWhileBusy, StartedHashCompletes: host activity that a hash outlives. -/
theorem witness_outlives :
    [readEvent .status, write 1, .idle, .host (.write 0x04 4 0)].all hashOutlives = true ∧
    (hashing 12 3).BUSY = true ∧
    (scheduled (hashing 12 3) ([write 1] ++ .engine :: [write 0])).inputs =
      [write 1] ++ .engine :: [write 0] := by decide

/-- FinishedRunIsStable: a finished run, and one that owes a completion. -/
theorem witness_final : Final State.reset ∧ (hashing 12 3).inputs = [] ∧ (hashing 12 3).BUSY = true :=
  ⟨⟨rfl, rfl⟩, rfl, rfl⟩

/-- ReadsSeeOneResultSet. -/
theorem witness_leaves :
    [readEvent .status, readEvent .check, .engine, .idle, .host (.write 0x04 4 0)].all leavesRegisters =
      true := by decide

/-- Pins that present nothing. -/
def quietPins : Pins := ⟨true, false, false, 0, 0⟩

/-- The pins of a CMD write. -/
def writePins (v : Word) : Pins := ⟨true, true, true, 0x00, v⟩

/-- The pins of a read. -/
def readPins (off : Offset) : Pins := ⟨true, true, false, off, 0⟩

/-- Values of the OPEN parameters: two instances, and a latency that differs per length. -/
def someParams : Params :=
  { bcvBase := fun k => 0x1000 * k, instances := 2, hashLatency := fun L => L + 1
    hashLatency_pos := fun _ => Nat.le_add_left _ _ }

/-- HashTakesItsLatency: an edge that starts a hash. -/
theorem witness_latency_start :
    (match clockEdge someParams (writePins 3) ⟨loaded (List.replicate 12 0), none⟩ with
      | .next d => d.block.BUSY && d.left == some 13
      | _ => false) = true ∧
    (loaded (List.replicate 12 0)).BUSY = false := by decide +kernel

/-- HashTakesItsLatency, SameCycleHostComesFirst: a countdown that ends at the next edge, one that does not, and the
pins of each clause. -/
theorem witness_clocked :
    (⟨hashing 12 3, some 1⟩ : Clocked).left = some (0 + 1) ∧
    [quietPins, writePins 1].all (fun p => p.rstN) = true ∧
    (writePins 1).rstN = true ∧ (writePins 1).busSel = true ∧ (writePins 1).busWe = true ∧
    (writePins 1).busAddr = 0x00 ∧ (readPins 0x04).busAddr = 0x04 ∧ (readPins 0x04).busWe = false ∧
    (readPins 0x5c).busAddr = regOffset (.digest 7) ∧ (Pins.mk true true true 0x04 0).busAddr ≠ 0x00 ∧
    quietPins.busSel = false ∧
    (Pins.mk false false false 0 0).rstN = false := by decide

/-- The completing edge with a CMD write: dropped, and the results are there (R210). -/
theorem test_clock_edge_completion :
    (match clockEdge someParams (writePins 1) ⟨hashing 12 3, some 1⟩ with
      | .next d => statusWord d.block == 0x00000c0e && checkWord d.block == 0x00040303 && d.left == none
      | _ => false) = true := by decide +kernel

/-- The completing edge with a read of CHECK: it returns what stood before the completion (R52, R210). -/
theorem test_clock_edge_read :
    (match clockEdge someParams (readPins 0x08) ⟨{ hashing 12 3 with CSUM := 9, RCVD := 9, CSLEN := 5 }, some 1⟩ with
      | .next d => d.block.bus == ⟨0x00050909, false⟩ && checkWord d.block == 0x00040303
      | _ => false) = true := by decide +kernel

/-! ### Witnesses: pseudo-instructions and the platform -/

/-- CheckmDecidesValidity: an empty list, a full one, and a schedule of the form asked for. -/
theorem witness_checkm :
    ([] : List Index).length ≤ 24 ∧ (List.replicate 24 (0 : Index)).length ≤ 24 ∧
    (scheduled .reset (checkmEvents 1 [3] ++ [write 0])).inputs = checkmEvents 1 [3] ++ [write 0] ∧
    State.reset.BUSY = false := by decide

/-- P1 as CHECKM: eleven zeros and 3 from reset, with two polls that see BUSY = 1. -/
theorem test_checkm :
    (match runEvents (checkmEvents 2 (List.replicate 11 0 ++ [3])) .reset with
      | .next t => t.bus == ⟨0x00000c06, false⟩
      | _ => false) = true := by decide +kernel

/-- InstancesAreIndependent: a platform of two blocks and a step of the second. -/
theorem witness_platform :
    let p : Platform := ⟨[.reset, scheduled .reset [write 0x07ff0002]]⟩
    p.instances[1]? = some (scheduled .reset [write 0x07ff0002]) ∧
    (match p.stepAt 1 with
      | .next q => q.instances[0]? == p.instances[0]?
      | _ => false) = true ∧
    1 < someParams.instances ∧ platformOffset someParams 1 0x10ff = some 0xff ∧
    platformOffset someParams 1 0x1100 = none := by decide +kernel

end Sys2Proof.Tests
end

section
/-! Which events give a next state and which are refused: one lemma per layer of the bus, from the command word up to
the step (R12, R54, R220). -/

namespace Sys2Proof.Machine

/-- No command word stops the block, in any state (R12). -/
theorem exists_commandWord_eq_next (v : Word) (s : State) : ∃ t, commandWord v s = .next t := by
  rcases commandWord_cases v s with ⟨-, h⟩ | ⟨_, -, -, h⟩ | ⟨_, -, -, h⟩
  · exact ⟨_, h⟩
  · exact ⟨_, h⟩
  · exact ⟨_, h⟩

theorem exists_memWrite_eq_next (off : Offset) (v : Word) (s : State) :
    ∃ t, memWrite off v s = .next t := by
  rcases memWrite_cases off v s with ⟨-, h⟩ | ⟨-, h⟩
  · exact ⟨_, h⟩
  · rw [h]
    exact exists_commandWord_eq_next v (ackWrite s)

/-- A host access of 4 bytes always has a response (R12, R54). -/
theorem exists_hostTransaction_eq_next {x : Txn} (h : x.wellFormed = true) (s : State) :
    ∃ t, hostTransaction x s = .next t := by
  cases x with
  | read off bytes =>
    obtain rfl : bytes = 4 := eq_of_beq h
    exact ⟨_, rfl⟩
  | write off bytes v =>
    obtain rfl : bytes = 4 := eq_of_beq h
    exact exists_memWrite_eq_next off v s

/-- A host access of any other width is refused, with that width in the refusal's name (R54, U5). -/
theorem hostTransaction_refused_of_width {x : Txn} (h : x.wellFormed = false) (s : State) :
    ∃ n, n ≠ 4 ∧ hostTransaction x s = .refused (.accessWidth n) := by
  cases x with
  | read off bytes =>
    have hn : bytes ≠ 4 := ne_of_beq_false h
    exact ⟨bytes, hn, if_neg hn⟩
  | write off bytes v =>
    have hn : bytes ≠ 4 := ne_of_beq_false h
    exact ⟨bytes, hn, if_neg hn⟩

/-- A well-formed event always gives a next state (R12, R220). -/
theorem exists_takeEvent_eq_next {e : Event} (h : e.wellFormed = true) (s : State) :
    ∃ t, takeEvent e s = .next t := by
  cases e with
  | host x => exact exists_hostTransaction_eq_next h s
  | engine => exact ⟨_, rfl⟩
  | reset presented => exact ⟨_, rfl⟩
  | idle => exact ⟨_, rfl⟩
  | otherMaster x => cases h
  | powerLoss => cases h

theorem step_of_unscheduled {s : State} (h : s.inputs = []) : step s = .next (unscheduled s) := by
  simp only [step, h]

/-- A step is the next scheduled event, acting on the state that has it taken off the schedule (R11). -/
theorem step_of_scheduled {s : State} {e : Event} {rest : List Event} (h : s.inputs = e :: rest) :
    step s = takeEvent e { s with inputs := rest } := by
  simp only [step, h]

/-- Settles O42: the step is the scheduled event, which gives a next state when it is well formed and is refused by
name otherwise. -/
theorem onlyOutsideEventsStop : Obligations.OnlyOutsideEventsStop := by
  unfold Obligations.OnlyOutsideEventsStop
  intro s
  refine ⟨fun hs => ⟨_, step_of_unscheduled hs⟩, fun e rest hs => ?_⟩
  rw [step_of_scheduled hs]
  refine ⟨fun he => exists_takeEvent_eq_next he _, ?_, ?_, ?_⟩
  · rintro x rfl hx
    exact hostTransaction_refused_of_width hx _
  · rintro x rfl
    rfl
  · rintro rfl
    rfl

end Sys2Proof.Machine
end

section
/-! The invariants of R43: each shared operation keeps them, and so does every step; with the facts on slots, lengths and
command words that this needs. -/

namespace Sys2Proof.Machine

/-- The low bits of a vector are zero as a number exactly when they are zero bit for bit. -/
theorem toNat_mod_two_pow_eq_zero_iff {w : Nat} (x : BitVec w) (m : Nat) :
    x.toNat % 2 ^ m = 0 ↔ ∀ n < m, x.getLsbD n = false := by
  have hbit (n : Nat) : (x.toNat % 2 ^ m).testBit n = (decide (n < m) && x.getLsbD n) := by
    rw [Nat.testBit_mod_two_pow, BitVec.testBit_toNat]
  constructor
  · intro h n hn
    simpa [h, hn] using hbit n
  · intro h
    apply Nat.zero_of_testBit_eq_false
    intro n
    rw [hbit]
    by_cases hn : n < m
    · simp [h n hn]
    · simp [hn]

/-- Writing the slot after the last word leaves the bits after that slot zero (R43 item 2). -/
theorem tail_zero_slotWrite {bs : BitString} {k : Nat} (idx : Index) (hk : k < 24)
    (h : bs.toNat % 2 ^ (264 - 11 * k) = 0) :
    (slotWrite bs k idx).toNat % 2 ^ (264 - 11 * (k + 1)) = 0 := by
  rw [toNat_mod_two_pow_eq_zero_iff] at h ⊢
  intro n hn
  have hbelow : ¬ (slotLow k ≤ n ∧ n < slotLow k + 11 ∧ n < 264) := by
    unfold slotLow
    omega
  rw [getLsbD_slotWrite, if_neg hbelow]
  exact h n (by omega)

/-- A vector that is carried to another width keeps its bound. -/
theorem toNat_setWidth_lt_two_pow {w : Nat} (x : BitVec w) (v : Nat) :
    (x.setWidth v).toNat < 2 ^ w := by
  rw [BitVec.toNat_setWidth]
  exact (Nat.mod_le _ _).trans_lt x.isLt

/-- Below the full length COUNT advances without wrapping (R22, R103). -/
theorem toNat_count_succ {c : BitVec 5} (hle : c.toNat ≤ 24) (hne : c ≠ 24) :
    c.toNat < 24 ∧ (c + 1).toNat = c.toNat + 1 := by
  have h24 : c.toNat ≠ 24 := fun h => hne (BitVec.eq_of_toNat_eq h)
  refine ⟨by omega, ?_⟩
  rw [BitVec.toNat_add]
  simp
  omega

/-- A supported length fits PL (R32). -/
theorem toNat_ofNat_length {L : Nat} (h : lok L = true) : (BitVec.ofNat 5 L).toNat = L := by
  have hL := length_table (lok_iff_mem.mp h)
  rw [BitVec.toNat_ofNat]
  omega

/-- The checksum length of a supported length fits CSLEN (R30). -/
theorem toNat_ofNat_csOf {L : Nat} (h : lok L = true) :
    (BitVec.ofNat 4 (csOf L)).toNat = csOf L ∧ 4 ≤ csOf L ∧ csOf L ≤ 8 := by
  obtain ⟨-, h4, h8, -⟩ := length_table (lok_iff_mem.mp h)
  refine ⟨?_, h4, h8⟩
  rw [BitVec.toNat_ofNat]
  omega

/-- The inversion of a command word: the next state is that of a dropped word, of an accepted command, or of ILLEGAL. -/
theorem commandWord_next_cases {v : Word} {s t : State} (h : commandWord v s = .next t) :
    (s.BUSY = true ∧ t = overrun s) ∨
    (∃ i, decode v = .instr i ∧ s.BUSY = false ∧ t = acceptedEffect i (accept s)) ∨
    (s.BUSY = false ∧ t = raiseCmdError .illegal (accept s)) := by
  rcases commandWord_cases v s with ⟨hb, he⟩ | ⟨i, hd, hb, he⟩ | ⟨why, -, hb, he⟩
  all_goals
    rw [he] at h
    injection h with h
  · exact .inl ⟨hb, h.symm⟩
  · exact .inr (.inl ⟨i, hd, hb, h.symm⟩)
  · exact .inr (.inr ⟨hb, h.symm⟩)

end Sys2Proof.Machine

namespace Sys2Proof

open Machine

/-- The invariants do not see the model's own fields. -/
theorem StateInv.withModelFields {s : State} (h : StateInv s) (inputs : List Event) (bus : BusOut)
    (freeIndex : Nat) :
    StateInv { s with inputs := inputs, bus := bus, freeIndex := freeIndex } :=
  { h with }

/-- A dropped CMD write writes OVR only, of which the invariants say nothing. -/
theorem StateInv.overrun {s : State} (h : StateInv s) : StateInv (overrun s) :=
  { h with }

theorem StateInv.accept {s : State} (h : StateInv s) : StateInv (accept s) :=
  { h with
    busy_flags := fun _ => ⟨rfl, rfl, rfl⟩
    valid_flags := fun hv => absurd hv (by simp) }

theorem StateInv.finish {s : State} (h : StateInv s) (hb : s.BUSY = false) : StateInv (finish s) :=
  { h with
    busy_flags := fun hb' => absurd hb' (by simp [hb])
    valid_flags := fun hv =>
      let ⟨he, _, hrest⟩ := h.valid_flags hv
      ⟨he, rfl, hrest⟩ }

theorem StateInv.raiseCmdError {s : State} (h : StateInv s) (hb : s.BUSY = false)
    (hv : s.VALID = false) (code : ErrCode) : StateInv (raiseCmdError code s) :=
  { h with
    busy_flags := fun hb' => absurd hb' (by simp [hb])
    valid_flags := fun hv' => absurd hv' (by simp [hv]) }

theorem StateInv.clearAll {s : State} (h : StateInv s) (hv : s.VALID = false) :
    StateInv (clearAll s) :=
  { h with
    count_le := by simp
    tail_zero := by rw [clearAll_BS, BitVec.ofNat_eq_ofNat, BitVec.toNat_zero, Nat.zero_mod]
    valid_flags := fun hv' => absurd hv' (by simp [hv])
    no_results := fun _ => ⟨rfl, rfl, rfl⟩
    results_fit := fun hc => absurd rfl hc }

theorem StateInv.appendWord {s : State} (h : StateInv s) (hc : s.COUNT ≠ 24) (idx : Index) :
    StateInv (appendWord idx s) :=
  have ⟨hlt, hsucc⟩ := toNat_count_succ h.count_le hc
  { h with
    count_le := by rw [appendWord_COUNT, hsucc]; exact hlt
    tail_zero := by
      rw [appendWord_COUNT, appendWord_BS, hsucc]
      exact tail_zero_slotWrite idx hlt h.tail_zero }

/-- A hash starts on an accepted state, with a packed value that fits its supported length (R43 items 3, 4 and 8). -/
theorem StateInv.startHash {s : State} (h : StateInv s) {L : Nat} {M : BitString}
    (hL : lok L = true) (hM : M.toNat < 2 ^ (11 * L)) : StateInv (startHash L M (Machine.accept s)) :=
  { h with
    busy_iff_pend := by simp
    busy_flags := fun _ => ⟨rfl, rfl, rfl⟩
    valid_flags := fun hv => absurd hv (by simp)
    pend_fits := by
      intro p hp
      simp only [startHash_PEND, Option.some.injEq] at hp
      subst hp
      simp only [toNat_ofNat_length hL]
      exact ⟨hL, hM⟩ }

theorem StateInv.hashOrWordCount {s : State} (h : StateInv s) (hb : s.BUSY = false) {L : Nat}
    {M : BitString} (hM : lok L = true → M.toNat < 2 ^ (11 * L)) :
    StateInv (hashOrWordCount L M (Machine.accept s)) := by
  rcases hashOrWordCount_cases L M (Machine.accept s) with ⟨hL, he⟩ | ⟨-, he⟩
  · rw [he]
    exact h.startHash hL (hM hL)
  · rw [he]
    exact h.accept.raiseCmdError hb rfl .wordCount

/-- Every accepted command keeps the invariants. -/
theorem StateInv.acceptedEffect {s : State} (h : StateInv s) (hb : s.BUSY = false) (i : Instr) :
    StateInv (acceptedEffect i (Machine.accept s)) := by
  cases i with
  | nop => exact h.accept.finish hb
  | clear => exact (h.accept.clearAll rfl).finish hb
  | append idx =>
    simp only [Machine.acceptedEffect]
    split
    · exact h.accept.raiseCmdError hb rfl .full
    · next hc => exact (h.accept.appendWord hc idx).finish hb
  | validate =>
    exact h.hashOrWordCount hb fun _ => toNat_firstWords_lt s.BS h.count_le
  | tryWord idx =>
    refine h.hashOrWordCount hb fun hL => toNat_withCandidate_lt s.BS idx ?_
    rw [accept_COUNT] at hL ⊢
    have hlen := length_table (lok_iff_mem.mp hL)
    omega

/-- A completion clears the pending hash and leaves results that fit the checksum length (R43 items 3 to 6). -/
theorem StateInv.completeWith {s : State} (h : StateInv s) {p : Pending} (hash : HashFn)
    (hb : s.BUSY = true) (hp : s.PEND = some p) : StateInv (completeWith hash p s) :=
  have ⟨hcs, h4, h8⟩ := toNat_ofNat_csOf (h.pend_fits p hp).1
  have hne : BitVec.ofNat 4 (csOf p.PL.toNat) ≠ 0 := fun h0 => by
    rw [h0] at hcs
    simp at hcs
    omega
  { h with
    busy_iff_pend := by simp
    busy_flags := fun hb' => absurd hb' (by simp)
    valid_flags := fun hv => by
      have heq := BitVec.eq_of_toNat_eq ((comparator_iff _ _).mp hv)
      refine ⟨(h.busy_flags hb).2.2, rfl, rfl, ?_, ?_, ?_⟩
      · rw [completeWith_CSUM, completeWith_RCVD, heq]
      · rw [completeWith_CSLEN, hcs]; exact h4
      · rw [completeWith_CSLEN, hcs]; exact h8
    no_results := fun h0 => absurd h0 hne
    results_fit := fun _ => by
      rw [completeWith_CSLEN, hcs]
      exact ⟨toNat_setWidth_lt_two_pow _ 8, toNat_setWidth_lt_two_pow _ 8⟩
    pend_fits := fun q hq => absurd hq (by simp) }

theorem StateInv.engineTurn {s : State} (h : StateInv s) : StateInv (engineTurn s) := by
  rcases engineTurnWith_cases hashWrap s with ⟨p, hb, hp, he⟩ | ⟨-, he⟩
  · rw [Machine.engineTurn, he]
    exact h.completeWith hashWrap hb hp
  · rw [Machine.engineTurn, he]
    exact h

/-- Settles O34: at reset nothing is stored, nothing runs and there is no result, so each item holds of zeros. -/
theorem invariantAtReset : Obligations.InvariantAtReset where
  count_le := by decide
  tail_zero := by rw [show State.reset.BS = 0#264 from rfl, BitVec.toNat_zero, Nat.zero_mod]
  busy_iff_pend := by decide
  busy_flags := by decide
  valid_flags := by decide
  no_results := fun _ => ⟨rfl, rfl, rfl⟩
  results_fit := fun h => absurd rfl h
  pend_fits := fun p h => by cases h

theorem StateInv.resetEdge (s : State) : StateInv (resetEdge s) :=
  StateInv.withModelFields invariantAtReset s.inputs busQuiet s.freeIndex

/-- Every command word, dropped, accepted or illegal, keeps the invariants. -/
theorem StateInv.commandWord {s t : State} (h : StateInv s) {v : Word}
    (ht : commandWord v s = .next t) : StateInv t := by
  rcases commandWord_next_cases ht with ⟨-, rfl⟩ | ⟨i, -, hb, rfl⟩ | ⟨hb, rfl⟩
  · exact h.overrun
  · exact h.acceptedEffect hb i
  · exact h.accept.raiseCmdError hb rfl .illegal

/-- Settles O33: each of the four things a step can do keeps the invariants. -/
theorem invariantKeptByStep : Obligations.InvariantKeptByStep := by
  unfold Obligations.InvariantKeptByStep
  intro s t h hstep
  obtain ⟨u, ⟨rest, rfl⟩, hcase⟩ := step_cases hstep
  have hu := h.withModelFields rest s.bus s.freeIndex
  rcases hcase with ⟨out, rfl⟩ | ⟨v, -, hv⟩ | ⟨-, rfl⟩ | ⟨presented, -, rfl⟩
  · exact h.withModelFields rest out s.freeIndex
  · exact StateInv.commandWord (h.withModelFields rest _ _) hv
  · exact hu.engineTurn
  · exact StateInv.resetEdge _

end Sys2Proof
end

section
/-! When the sticky flag OVR and the flag VALID change: per command word, per turn of the engine, and per step (R25, R26). -/

namespace Sys2Proof.Machine

/-- CLEAR has one command word (R83). -/
theorem eq_of_decode_clear {v : Word} (h : decode v = .instr .clear) : v = 0x00000001 := by
  unfold decode at h
  split at h
  · cases h
  next hrsv =>
  split at h
  · cases h
  split at h
  · next hclear =>
    simp only [not_or, not_not] at hrsv
    have hop := congrArg BitVec.toNat hclear.1
    have hidx := congrArg BitVec.toNat hclear.2
    have hrsv0 := congrArg BitVec.toNat hrsv.2
    have hrsv1 := congrArg BitVec.toNat hrsv.1
    simp [opField, idxField, rsv0Field, rsv1Field, Nat.shiftRight_eq_div_pow]
      at hop hidx hrsv0 hrsv1
    apply BitVec.eq_of_toNat_eq
    have hv := v.isLt
    simp
    omega
  · repeat' split at h
    all_goals cases h

theorem decode_clearWord : decode 0x00000001 = .instr .clear := by decide

/-- A command word that arrives while BUSY = 1 sets OVR and nothing else, whatever it is (R206). -/
theorem commandWord_of_busy {s : State} (hb : s.BUSY = true) (v : Word) :
    commandWord v s = .next (overrun s) := by
  rcases commandWord_cases v s with ⟨-, he⟩ | ⟨_, -, hi, -⟩ | ⟨_, -, hi, -⟩
  · exact he
  · exact absurd hb (by simp [hi])
  · exact absurd hb (by simp [hi])

theorem commandWord_clear {s : State} (hb : s.BUSY = false) :
    commandWord 0x00000001 s = .next (finish (clearAll (accept s))) := by
  rw [commandWord_of_instr decode_clearWord, exec_eq_command, command_of_idle hb]
  rfl

@[simp] theorem hashOrWordCount_OVR (L : Nat) (M : BitString) (s : State) :
    (hashOrWordCount L M s).OVR = s.OVR := by
  rcases hashOrWordCount_cases L M s with ⟨-, h⟩ | ⟨-, h⟩ <;> rw [h] <;> rfl

@[simp] theorem hashOrWordCount_VALID (L : Nat) (M : BitString) (s : State) :
    (hashOrWordCount L M s).VALID = s.VALID := by
  rcases hashOrWordCount_cases L M s with ⟨-, h⟩ | ⟨-, h⟩ <;> rw [h] <;> rfl

/-- CLEAR is the only command that writes OVR (R26, R102). -/
theorem acceptedEffect_OVR {i : Instr} (hi : i ≠ .clear) (s : State) :
    (acceptedEffect i s).OVR = s.OVR := by
  cases i with
  | nop => rfl
  | clear => exact absurd rfl hi
  | append idx => simp only [acceptedEffect]; split <;> rfl
  | validate => exact hashOrWordCount_OVR ..
  | tryWord idx => exact hashOrWordCount_OVR ..

/-- No command writes VALID beyond the clearing at acceptance (R25, R100). -/
@[simp] theorem acceptedEffect_VALID (i : Instr) (s : State) :
    (acceptedEffect i s).VALID = s.VALID := by
  cases i with
  | nop => rfl
  | clear => rfl
  | append idx => simp only [acceptedEffect]; split <;> rfl
  | validate => exact hashOrWordCount_VALID ..
  | tryWord idx => exact hashOrWordCount_VALID ..

/-- What a command word can do to OVR: set it when dropped, clear it as an accepted CLEAR, or leave it. -/
theorem commandWord_OVR_cases {v : Word} {s t : State} (h : commandWord v s = .next t) :
    (s.BUSY = true ∧ t.OVR = true) ∨
    (s.BUSY = false ∧ v = 0x00000001 ∧ t.OVR = false) ∨
    t.OVR = s.OVR := by
  rcases commandWord_next_cases h with ⟨hb, rfl⟩ | ⟨i, hd, hb, rfl⟩ | ⟨-, rfl⟩
  · exact .inl ⟨hb, rfl⟩
  · by_cases hi : i = .clear
    · subst hi
      exact .inr (.inl ⟨hb, eq_of_decode_clear hd, rfl⟩)
    · exact .inr (.inr (acceptedEffect_OVR hi (accept s)))
  · exact .inr (.inr rfl)

/-- What a command word can do to VALID: clear it when accepted, or leave it when dropped. -/
theorem commandWord_VALID_cases {v : Word} {s t : State} (h : commandWord v s = .next t) :
    (s.BUSY = true ∧ t.VALID = s.VALID) ∨ (s.BUSY = false ∧ t.VALID = false) := by
  rcases commandWord_next_cases h with ⟨hb, rfl⟩ | ⟨i, -, hb, rfl⟩ | ⟨hb, rfl⟩
  · exact .inl ⟨hb, rfl⟩
  · exact .inr ⟨hb, acceptedEffect_VALID i (accept s)⟩
  · exact .inr ⟨hb, rfl⟩

@[simp] theorem engineTurn_OVR (s : State) : (engineTurn s).OVR = s.OVR := by
  rcases engineTurnWith_cases hashWrap s with ⟨p, -, -, h⟩ | ⟨-, h⟩ <;> rw [engineTurn, h]
  rfl

/-- The engine does not see the schedule: it turns the same before and after an event is taken off (R133). -/
theorem engineTurn_withInputs (s : State) (inputs : List Event) :
    engineTurn { s with inputs := inputs } = { engineTurn s with inputs := inputs } := by
  rcases engineTurnWith_cases hashWrap s with ⟨p, hb, hp, h⟩ | ⟨hi, h⟩
  · rw [engineTurn, engineTurn, h]
    exact engineTurnWith_of_pend hashWrap hb hp
  · rw [engineTurn, engineTurn, h]
    rcases engineTurnWith_cases hashWrap { s with inputs := inputs } with ⟨p, hb, hp, -⟩ | ⟨-, h'⟩
    · rcases hi with hi | hi
      · exact absurd hb (by simp [hi])
      · exact absurd hp (by simp [hi])
    · exact h'

/-- A turn of the engine that leaves VALID = 1 found it so, or is a completion, which sets DONE and leaves ERR (R25, R133). -/
theorem engineTurn_VALID {s : State} (h : (engineTurn s).VALID = true) :
    s.VALID = true ∨ (s.BUSY = true ∧ (engineTurn s).ERR = s.ERR ∧ (engineTurn s).DONE = true) := by
  rcases engineTurnWith_cases hashWrap s with ⟨p, hb, -, he⟩ | ⟨-, he⟩
  · right
    rw [engineTurn, he]
    exact ⟨hb, rfl, rfl⟩
  · left
    rwa [engineTurn, he] at h

/-- A step that takes a reset edge resets the block (R230, R231). -/
theorem step_of_reset {s : State} {presented : Option Txn} {rest : List Event}
    (h : s.inputs = .reset presented :: rest) :
    step s = .next (resetEdge { s with inputs := rest }) := by
  rw [step_of_scheduled h]
  rfl

/-- A step whose next event is a CMD write while BUSY = 1 drops the word (R206). -/
theorem step_of_cmdWrite_busy {s : State} (hb : s.BUSY = true) {v : Word} {rest : List Event}
    (h : s.inputs = .host (.write 0x00 4 v) :: rest) :
    step s = .next (overrun (ackWrite { s with inputs := rest })) := by
  rw [step_of_cmdWrite h]
  exact commandWord_of_busy (s := ackWrite { s with inputs := rest }) hb v

/-- A reset and an accepted CLEAR leave OVR = 0 (R26). -/
theorem step_OVR_cleared {s t : State} (hstep : step s = .next t)
    (h : takesReset s ∨ acceptsWord 0x00000001 s) : t.OVR = false := by
  rcases h with ⟨presented, rest, hi⟩ | ⟨hb, rest, hi⟩
  · rw [step_of_reset hi] at hstep
    injection hstep with hstep
    subst hstep
    rfl
  · rw [step_of_cmdWrite hi, commandWord_clear (s := ackWrite { s with inputs := rest }) hb] at hstep
    injection hstep with hstep
    subst hstep
    rfl

/-- A step that changes OVR is a dropped CMD write, a reset, or an accepted CLEAR (R26). -/
theorem step_OVR_changed {s t : State} (hstep : step s = .next t) (hne : t.OVR ≠ s.OVR) :
    (t.OVR = true ∧ s.BUSY = true ∧ ∃ v rest, s.inputs = .host (.write 0x00 4 v) :: rest) ∨
    (t.OVR = false ∧ (takesReset s ∨ acceptsWord 0x00000001 s)) := by
  obtain ⟨u, ⟨rest, rfl⟩, hcase⟩ := step_cases hstep
  rcases hcase with ⟨out, rfl⟩ | ⟨v, hi, hv⟩ | ⟨-, rfl⟩ | ⟨presented, hi, rfl⟩
  · exact absurd rfl hne
  · rcases commandWord_OVR_cases hv with ⟨hb, ho⟩ | ⟨hb, rfl, ho⟩ | ho
    · exact .inl ⟨ho, hb, v, rest, hi⟩
    · exact .inr ⟨ho, .inr ⟨hb, rest, hi⟩⟩
    · exact absurd ho hne
  · exact absurd (engineTurn_OVR _) hne
  · exact .inr ⟨rfl, .inl ⟨presented, rest, hi⟩⟩

/-- Settles O10: the dropped write is `overrun`, and the inversion of the step leaves no other change of OVR. -/
theorem overrunIsSticky : Obligations.OverrunIsSticky := by
  unfold Obligations.OverrunIsSticky
  intro s t hstep
  refine ⟨fun v rest hb hi => ?_, step_OVR_cleared hstep, step_OVR_changed hstep⟩
  rw [step_of_cmdWrite_busy hb hi] at hstep
  injection hstep with hstep
  exact hstep.symm

/-- An accepted CMD write, of whatever word, leaves VALID = 0 (R25, R100). -/
theorem step_VALID_of_accepted {s t : State} (hstep : step s = .next t) {v : Word}
    (h : acceptsWord v s) : t.VALID = false := by
  obtain ⟨hb, rest, hi⟩ := h
  rw [step_of_cmdWrite hi] at hstep
  rcases commandWord_VALID_cases hstep with ⟨hb', -⟩ | ⟨-, hv⟩
  · exact absurd hb' (by simp [hb])
  · exact hv

/-- A step to VALID = 1 started from it or is a completion (R25). -/
theorem step_VALID_raised {s t : State} (hstep : step s = .next t) (hvalid : t.VALID = true) :
    s.VALID = true ∨
      (takesCompletion s ∧ t.VALID = (engineTurn s).VALID ∧ t.ERR = s.ERR ∧ t.DONE = true) := by
  obtain ⟨u, ⟨rest, rfl⟩, hcase⟩ := step_cases hstep
  rcases hcase with ⟨out, rfl⟩ | ⟨v, hi, hv⟩ | ⟨hi, rfl⟩ | ⟨presented, -, rfl⟩
  · exact .inl hvalid
  · rcases commandWord_VALID_cases hv with ⟨-, hsame⟩ | ⟨-, hzero⟩
    · exact .inl (hsame ▸ hvalid)
    · exact absurd hvalid (by simp [hzero])
  · rw [engineTurn_withInputs] at hvalid ⊢
    rcases engineTurn_VALID hvalid with hs | ⟨hb, herr, hdone⟩
    · exact .inl hs
    · have hturn : s.inputs = [] ∨ ∃ rest, s.inputs = .engine :: rest :=
        hi.symm.imp And.left fun h => ⟨rest, h⟩
      exact .inr ⟨⟨hb, hturn⟩, rfl, herr, hdone⟩
  · exact absurd hvalid (by simp)

/-- Settles O20: of the four things a step can do, only the engine's completion writes VALID from the comparator. -/
theorem validOnlyFromCompletion : Obligations.ValidOnlyFromCompletion := by
  unfold Obligations.ValidOnlyFromCompletion
  intro s t hstep
  exact ⟨fun ⟨_, h⟩ => step_VALID_of_accepted hstep h, step_VALID_raised hstep⟩

end Sys2Proof.Machine
end

section
/-! What the registers show: the words of the bit string, the fields of STATUS, CHECK and DIGESTj, and the windows BITSj (R21, R37 to
R40), and that no register shows PEND (R32). -/

namespace Sys2Proof.Machine

/-! ### The packed words (R21, R104) -/

/-- A further word of a left-aligned packed list is a write of the next slot (R103, R104). -/
theorem pack_append_shiftLeft (is : List Index) (i : Index) (h : is.length < 24) :
    pack (is ++ [i]) <<< (264 - 11 * (is.length + 1)) =
      slotWrite (pack is <<< (264 - 11 * is.length)) is.length i := by
  have hlow : slotLow is.length = 264 - 11 * (is.length + 1) := by
    unfold slotLow
    omega
  apply BitVec.eq_of_getLsbD_eq
  intro n hn
  rw [pack_append, getLsbD_slotWrite, hlow, BitVec.getLsbD_shiftLeft, BitVec.getLsbD_or,
    BitVec.getLsbD_shiftLeft, BitVec.getLsbD_setWidth, BitVec.getLsbD_shiftLeft]
  by_cases hbelow : n < 264 - 11 * (is.length + 1)
  · rw [if_neg (by omega)]
    have hbelow' : n < 264 - 11 * is.length := by omega
    simp [hbelow, hbelow']
  by_cases hslot : n < 264 - 11 * is.length
  · rw [if_pos (by omega)]
    have hin : n - (264 - 11 * (is.length + 1)) < 11 := by omega
    have hwidth : n - (264 - 11 * (is.length + 1)) < 264 := by omega
    simp [hn, hbelow, hin, hwidth]
  · rw [if_neg (by omega), BitVec.getLsbD_of_ge i _ (by omega)]
    have habove : ¬ n - (264 - 11 * (is.length + 1)) < 11 := by omega
    have hwidth : n - (264 - 11 * (is.length + 1)) < 264 := by omega
    have hbit : n - (264 - 11 * (is.length + 1)) - 11 = n - (264 - 11 * is.length) := by omega
    simp [hn, hbelow, hslot, habove, hwidth, hbit]

/-- Slot k of a left-aligned packed list reads the k-th word (R21, R104). -/
theorem slotRead_pack_shiftLeft (is : List Index) (hlen : is.length ≤ 24) (k : Nat)
    (hk : k < is.length) : slotRead (pack is <<< (264 - 11 * is.length)) k = is[k] := by
  induction is using List.reverseRecOn with
  | nil => exact absurd hk (Nat.not_lt_zero k)
  | append_singleton is i ih =>
    simp only [List.length_append, List.length_singleton] at hlen hk ⊢
    rw [pack_append_shiftLeft is i (by omega)]
    by_cases hlast : k = is.length
    · subst hlast
      rw [slotRead_slotWrite, List.getElem_concat_length rfl]
    · have hk' : k < is.length := by omega
      rw [slotRead_slotWrite_of_lt _ i (by omega) hk', ih (by omega) hk',
        List.getElem_append_left hk']

/-- Settles O31: each word is read back from its slot, and the shift of the packed list leaves zeros after the last. -/
theorem wordsReadBack : Obligations.WordsReadBack := by
  unfold Obligations.WordsReadBack
  rintro s is hlen ⟨-, hbits⟩
  rw [hbits]
  refine ⟨slotRead_pack_shiftLeft is hlen, fun n hn => ?_⟩
  rw [BitVec.getLsbD_shiftLeft]
  simp [hn]

/-! ### STATUS, CHECK and DIGESTj (R37, R38, R40) -/

theorem statusWord_flags (s : State) :
    (statusWord s).getLsbD 0 = s.BUSY ∧ (statusWord s).getLsbD 1 = s.DONE ∧
      (statusWord s).getLsbD 2 = s.VALID ∧ (statusWord s).getLsbD 3 = s.OVR ∧
      (statusWord s).getLsbD 7 = false := by
  refine ⟨?_, ?_, ?_, ?_, ?_⟩
  all_goals
    refine BitVec.getLsbD_append.trans ?_
    simp only [BitVec.getLsbD_append]
    simp

theorem statusWord_fields (s : State) :
    (statusWord s).extractLsb' 4 3 = s.ERR.code ∧ (statusWord s).extractLsb' 8 5 = s.COUNT ∧
      (statusWord s).extractLsb' 13 19 = 0 := by
  refine ⟨?_, ?_, ?_⟩
  all_goals
    refine (BitVec.extractLsb'_append_eq_of_le (by decide)).trans ?_
    simp (disch := decide) only [BitVec.extractLsb'_append_eq_of_le,
      BitVec.extractLsb'_append_eq_of_add_le]
    exact BitVec.extractLsb'_eq_self

theorem checkWord_fields (s : State) :
    (checkWord s).extractLsb' 0 8 = s.CSUM ∧ (checkWord s).extractLsb' 8 8 = s.RCVD ∧
      (checkWord s).extractLsb' 16 4 = s.CSLEN ∧ (checkWord s).extractLsb' 20 12 = 0 := by
  refine ⟨BitVec.extractLsb'_append_eq_right, ?_, ?_, ?_⟩
  all_goals
    refine (BitVec.extractLsb'_append_eq_of_le (by decide)).trans ?_
    simp (disch := decide) only [BitVec.extractLsb'_append_eq_of_le,
      BitVec.extractLsb'_append_eq_of_add_le]
    exact BitVec.extractLsb'_eq_self

/-- DIG[j] is the j-th word of the digest value from the top (R31, R40, R169). -/
theorem Digest.word_eq_extractLsb' (d : Digest) (j : Fin 8) :
    d.word j = d.value.extractLsb' (224 - 32 * j.val) 32 := by
  fin_cases j
  rotate_right
  · exact BitVec.extractLsb'_append_eq_right.symm
  all_goals
    refine ((BitVec.extractLsb'_append_eq_of_le (by decide)).trans ?_).symm
    simp (disch := decide) only [BitVec.extractLsb'_append_eq_of_le,
      BitVec.extractLsb'_append_eq_of_add_le]
    exact BitVec.extractLsb'_eq_self

/-- Settles O39: each field is its part of the concatenation that the register is. -/
theorem registerFields : Obligations.RegisterFields := by
  unfold Obligations.RegisterFields
  intro s
  obtain ⟨hbusy, hdone, hvalid, hovr, hreserved⟩ := statusWord_flags s
  obtain ⟨herr, hcount, htop⟩ := statusWord_fields s
  exact ⟨⟨hbusy, hdone, hvalid, hovr, herr, hreserved, hcount, htop⟩, checkWord_fields s,
    s.DIG.word_eq_extractLsb'⟩

/-! ### BITSj (R39) -/

/-- Register bit 31−i of BITSj is stream bit 32j+i, and 0 past the end of the stream. -/
theorem getLsbD_bitsWord (bs : BitString) (j : Fin 9) {i : Nat} (hi : i < 32) :
    (bitsWord bs j).getLsbD (31 - i) =
      if 32 * j.val + i < 264 then bs.getLsbD (263 - (32 * j.val + i)) else false := by
  unfold bitsWord
  by_cases hj : j.val < 8
  · rw [if_pos hj, if_pos (by omega), BitVec.getLsbD_extractLsb',
      show 232 - 32 * j.val + (31 - i) = 263 - (32 * j.val + i) by omega]
    simp
    omega
  · have h8 : j.val = 8 := by omega
    rw [if_neg hj, h8, BitVec.getLsbD_append]
    by_cases hend : i < 8
    · rw [if_neg (by omega), if_pos (by omega), BitVec.getLsbD_extractLsb',
        show 0 + (31 - i - 24) = 263 - (32 * 8 + i) by omega]
      simp
      omega
    · rw [if_pos (by omega), if_neg (by omega), BitVec.getLsbD_zero]

/-- The bits of the entropy of the first L words are the first ENT bits of the stream, the last one lowest (R39, R134). -/
theorem getLsbD_entropy_firstWords (bs : BitString) {L n : Nat} (hL : L ∈ [12, 15, 18, 21, 24])
    (hn : n < entOf L) :
    (entropy L (firstWords bs L)).getLsbD n = bs.getLsbD (264 - entOf L + n) := by
  obtain ⟨hsum, -, -, -, -, -, hle⟩ := length_table hL
  rw [entropy, firstWords, BitVec.getLsbD_extractLsb', BitVec.getLsbD_ushiftRight,
    show 264 - 11 * L + (csOf L + n) = 264 - entOf L + n by omega]
  simp [hn]

/-- Byte b of the entropy lies at byte b mod 4, from the top, of BITS(b div 4) (R39). -/
theorem entropyByte_eq_bitsWord (bs : BitString) {L b : Nat} (j : Fin 9)
    (hL : L ∈ [12, 15, 18, 21, 24]) (hb : b < entOf L / 8) (hj : j.val = b / 4) :
    (entropy L (firstWords bs L)).extractLsb' (entOf L - 8 - 8 * b) 8 =
      (bitsWord bs j).extractLsb' (24 - 8 * (b % 4)) 8 := by
  obtain ⟨hsum, -, -, -, -, -, hle⟩ := length_table hL
  apply BitVec.eq_of_getLsbD_eq
  intro i hi
  rw [BitVec.getLsbD_extractLsb', BitVec.getLsbD_extractLsb',
    getLsbD_entropy_firstWords bs hL (by omega),
    show 24 - 8 * (b % 4) + i = 31 - (8 * (b % 4) + 7 - i) by omega,
    getLsbD_bitsWord bs j (by omega), if_pos (by omega)]
  congr 2
  omega

/-- Settles O40: bit for bit, the windows and the entropy bytes are the stream. -/
theorem bitsRegistersShowTheStream : Obligations.BitsRegistersShowTheStream := by
  unfold Obligations.BitsRegistersShowTheStream
  refine ⟨fun s j i hi => getLsbD_bitsWord s.BS j hi, fun bs L b j hL hb hj => ?_⟩
  rw [← entropyByte_eq_bitsWord bs j hL hb hj, entropyBytes]
  simp [hb]

/-! ### PEND is hidden (R32) -/

theorem regValue_withPend (s : State) (p : Option Pending) (r : Reg) :
    regValue { s with PEND := p } r = regValue s r := by
  cases r <;> rfl

/-- A read sees the registers only, and none of them shows PEND. -/
theorem readResponse_withPend (off : Offset) (s : State) (p : Option Pending) :
    readResponse off { s with PEND := p } = readResponse off s := by
  by_cases h : readError off = none
  · obtain ⟨r, rfl⟩ := readError_eq_none.mp h
    rw [readResponse_regOffset, readResponse_regOffset, regValue_withPend]
  · rw [readResponse_of_error h, readResponse_of_error h]

/-- Settles O41: two states that differ in PEND only are one state with two values of PEND. -/
theorem pendingIsHidden : Obligations.PendingIsHidden := by
  unfold Obligations.PendingIsHidden
  intro s s' off h
  rw [h]
  exact (readResponse_withPend off s s'.PEND).symm

end Sys2Proof.Machine
end

section
/-! Several instances on a platform: a step of one is local to it, and its address window is found back (R35, R70). -/

namespace Sys2Proof.Machine

/-- A platform step at a block is `step` of that block, put back in its place (R70). -/
theorem stepAt_eq_next {p q : Platform} {k : Nat} {s : State} (hk : p.instances[k]? = some s)
    (h : p.stepAt k = .next q) : ∃ t, step s = .next t ∧ q = ⟨p.instances.set k t⟩ := by
  unfold Platform.stepAt at h
  simp only [hk] at h
  cases hs : step s with
  | next t =>
    simp only [hs] at h
    injection h with h
    exact ⟨t, rfl, h.symm⟩
  | fault r => simp [hs] at h
  | refused r => simp [hs] at h

/-- The offset of a platform address is found back in the window of its block (R35, R68). -/
theorem platformOffset_platformAddress (P : Params) (k : Nat) (off : Offset) :
    platformOffset P k (platformAddress P k off) = some off := by
  have hoff : off.toNat < 256 := off.isLt
  unfold platformOffset platformAddress
  rw [if_pos (by omega), Nat.add_sub_cancel_left, BitVec.ofNat_toNat, BitVec.setWidth_eq]

/-- Settles O51: a step sets the list of blocks at its own index, and the platform begins as a list of reset blocks. -/
theorem instancesAreIndependent : Obligations.InstancesAreIndependent := by
  unfold Obligations.InstancesAreIndependent
  refine ⟨fun p q k s hk hstep => ?_, fun P => ⟨?_, fun k hk => ?_, ?_⟩⟩
  · obtain ⟨t, ht, rfl⟩ := stepAt_eq_next hk hstep
    obtain ⟨hlt, -⟩ := List.getElem?_eq_some_iff.mp hk
    exact ⟨⟨t, ht, List.getElem?_set_self hlt⟩, fun j hj => List.getElem?_set_ne hj.symm⟩
  · exact List.length_replicate
  · exact List.getElem?_replicate_of_lt hk
  · exact platformOffset_platformAddress P

end Sys2Proof.Machine
end

section
/-! What a host transaction does to the block: a read answers the register at its offset, a write off CMD is refused, and a CMD
write runs the command it decodes to (R55, R56, R100). -/

namespace Sys2Proof.Machine

/-! ### Reads (R55) -/

/-- No register lies at a misaligned or a reserved offset (R35, R41). -/
theorem regOffset_aligned_and_mapped (r : Reg) :
    ¬ ((regOffset r).toNat % 4 ≠ 0 ∨ (regOffset r).toNat = 0x0C ∨
      (0x34 ≤ (regOffset r).toNat ∧ (regOffset r).toNat ≤ 0x3C) ∨ 0x60 ≤ (regOffset r).toNat) := by
  cases r with
  | cmd => decide
  | status => decide
  | check => decide
  | bits j => simp only [regOffset, BitVec.toNat_ofNat]; omega
  | digest j => simp only [regOffset, BitVec.toNat_ofNat]; omega

/-- A read at a misaligned or a reserved offset answers 0 with `bus_err = 1` (R55, R207). -/
theorem readResponse_of_refused {off : Offset}
    (h : off.toNat % 4 ≠ 0 ∨ off.toNat = 0x0C ∨ (0x34 ≤ off.toNat ∧ off.toNat ≤ 0x3C) ∨
      0x60 ≤ off.toNat) (s : State) : readResponse off s = busRefused := by
  apply readResponse_of_error
  intro hnone
  obtain ⟨r, rfl⟩ := readError_eq_none.mp hnone
  exact regOffset_aligned_and_mapped r h

/-- An offset is that of BITSj when its number is (R35). -/
theorem eq_regOffset_bits {off : Offset} {j : Fin 9} (h : off.toNat = 0x10 + 4 * j.val) :
    off = regOffset (.bits j) := by
  apply BitVec.eq_of_toNat_eq
  simp only [regOffset, BitVec.toNat_ofNat]
  omega

/-- An offset is that of DIGESTj when its number is (R35). -/
theorem eq_regOffset_digest {off : Offset} {j : Fin 8} (h : off.toNat = 0x40 + 4 * j.val) :
    off = regOffset (.digest j) := by
  apply BitVec.eq_of_toNat_eq
  simp only [regOffset, BitVec.toNat_ofNat]
  omega

/-- Settles O36: the step drives the ports with the read's response, which is the register where there is one. -/
theorem readsReturnRegisters : Obligations.ReadsReturnRegisters := by
  unfold Obligations.ReadsReturnRegisters
  intro s off rest hs
  refine ⟨readResponse off s, step_of_read hs, ?_, ?_, ?_, fun j hj => ?_, fun j hj => ?_,
    fun h => readResponse_of_refused h s⟩
  · rintro rfl
    exact readResponse_regOffset .cmd s
  · rintro rfl
    exact readResponse_regOffset .status s
  · rintro rfl
    exact readResponse_regOffset .check s
  · rw [eq_regOffset_bits hj]
    exact readResponse_regOffset (.bits j) s
  · rw [eq_regOffset_digest hj]
    exact readResponse_regOffset (.digest j) s

/-! ### Writes (R56) -/

@[simp] theorem hashOrWordCount_bus (L : Nat) (M : BitString) (s : State) :
    (hashOrWordCount L M s).bus = s.bus := by
  rcases hashOrWordCount_cases L M s with ⟨-, h⟩ | ⟨-, h⟩ <;> rw [h] <;> rfl

/-- No command drives the ports: their answer is the write's (R56). -/
@[simp] theorem acceptedEffect_bus (i : Instr) (s : State) : (acceptedEffect i s).bus = s.bus := by
  cases i with
  | nop => rfl
  | clear => rfl
  | append idx => simp only [acceptedEffect]; split <;> rfl
  | validate => exact hashOrWordCount_bus ..
  | tryWord idx => exact hashOrWordCount_bus ..

/-- Whatever becomes of a command word, the ports stay as the write's answer drove them (R56). -/
theorem commandWord_bus {v : Word} {s t : State} (h : commandWord v s = .next t) : t.bus = s.bus := by
  rcases commandWord_next_cases h with ⟨-, rfl⟩ | ⟨i, -, -, rfl⟩ | ⟨-, rfl⟩
  · rfl
  · exact acceptedEffect_bus i (accept s)
  · rfl

theorem memWrite_of_ne_cmd {off : Offset} (h : off ≠ 0x00) (v : Word) (s : State) :
    memWrite off v s = .next (respond busRefused s) := by
  rcases memWrite_cases off v s with ⟨-, hw⟩ | ⟨h0, -⟩
  · exact hw
  · exact absurd h0 h

/-- Settles O37: a write off CMD is refused, and a CMD write hands its word to the decoder, which leaves the answer. -/
theorem writesReachOnlyCmd : Obligations.WritesReachOnlyCmd := by
  unfold Obligations.WritesReachOnlyCmd
  intro s off v rest hs
  refine ⟨fun hoff => ?_, ?_⟩
  · rw [step_of_scheduled hs]
    exact memWrite_of_ne_cmd hoff v { s with inputs := rest }
  · rintro rfl
    obtain ⟨t, ht⟩ := exists_commandWord_eq_next v (ackWrite { s with inputs := rest })
    refine ⟨t, (step_of_cmdWrite hs).trans ht, ?_, ht⟩
    rw [commandWord_bus ht]
    rfl

/-! ### The command of a CMD write (R56, R100) -/

/-- A step whose next event is a CMD write runs the command that its word decodes to (R100). -/
theorem step_of_cmdWrite_instr {s : State} {v : Word} {i : Instr} {rest : List Event}
    (hs : s.inputs = .host (.write 0x00 4 v) :: rest) (hv : decode v = .instr i) :
    step s = exec i (ackWrite { s with inputs := rest }) := by
  rw [step_of_cmdWrite hs, commandWord_of_instr hv]

/-- `withFetchWord` schedules the CMD write of its word before everything else (R65). -/
theorem withFetchWord_inputs (s : State) (v : Word) :
    (s.withFetchWord 32 v.toNat).inputs = .host (.write 0x00 4 v) :: s.inputs := by
  simp only [State.withFetchWord, BitVec.toNat_mod_cancel, BitVec.ofNat_toNat, BitVec.setWidth_eq]

/-- Settles O8: the write hands its word to the decoder, on the state that has answered it. -/
theorem stepRunsDecodedCommand : Obligations.StepRunsDecodedCommand := by
  unfold Obligations.StepRunsDecodedCommand
  intro s v i rest hv
  exact ⟨fun hs => step_of_cmdWrite_instr hs hv,
    step_of_cmdWrite_instr (withFetchWord_inputs s v) hv⟩

/-! ### Completion within the write (R62, R239) -/

/-- The block has finished its command: nothing runs and DONE = 1 (R24, R62). -/
def Completed (s : State) : Prop := s.BUSY = false ∧ s.DONE = true

/-- The block has started a hash: BUSY = 1, DONE = 0 and the pending hash is set (R131, R239). -/
def Hashing (s : State) : Prop := s.BUSY = true ∧ s.DONE = false ∧ s.PEND ≠ none

/-- The word-count check on an accepted state ends in WORD_COUNT or starts a hash (R130, R202). -/
theorem hashOrWordCount_completed_or_hashing (L : Nat) (M : BitString) {s : State}
    (hb : s.BUSY = false) (hd : s.DONE = false) :
    Completed (hashOrWordCount L M s) ∨ Hashing (hashOrWordCount L M s) := by
  rcases hashOrWordCount_cases L M s with ⟨-, h⟩ | ⟨-, h⟩
  · rw [h]
    exact .inr ⟨rfl, hd, Option.some_ne_none _⟩
  · rw [h]
    exact .inl ⟨hb, rfl⟩

/-- Settles O16: NOP, CLEAR and APPEND complete on each path, VALIDATE and TRY end with the word-count check. -/
theorem commandCompletesOrHashes : Obligations.CommandCompletesOrHashes := by
  unfold Obligations.CommandCompletesOrHashes
  intro i s hb
  refine ⟨acceptedEffect i (accept s), by rw [exec_eq_command, command_of_idle hb], ?_⟩
  cases i with
  | nop => exact .inl ⟨hb, rfl⟩
  | clear => exact .inl ⟨hb, rfl⟩
  | append idx =>
    left
    simp only [acceptedEffect]
    split
    · exact ⟨hb, rfl⟩
    · exact ⟨hb, rfl⟩
  | validate =>
    exact (hashOrWordCount_completed_or_hashing _ _ (s := accept s) hb rfl).imp_right
      fun ⟨hbusy, hdone, hpend⟩ => ⟨hbusy, hdone, hpend, .inl rfl⟩
  | tryWord idx =>
    exact (hashOrWordCount_completed_or_hashing _ _ (s := accept s) hb rfl).imp_right
      fun ⟨hbusy, hdone, hpend⟩ => ⟨hbusy, hdone, hpend, .inr ⟨idx, rfl⟩⟩

end Sys2Proof.Machine
end

section
/-! While no hash runs, the events that are no command and no reset drive the ports only (R57, R60, R238). -/

namespace Sys2Proof.Machine

/-- No register shows the schedule or the ports (R20). -/
theorem regValue_withInputsBus (s : State) (inputs : List Event) (out : BusOut) (r : Reg) :
    regValue { s with inputs := inputs, bus := out } r = regValue s r := by
  cases r <;> rfl

/-- With BUSY = 0, a read, a refused write, an idle cycle and a turn of the engine drive the ports at most (R57, R60). -/
theorem takeEvent_of_leavesRegisters {e : Event} (he : leavesRegisters e = true) {s : State}
    (hb : s.BUSY = false) : ∃ out, takeEvent e s = .next (respond out s) := by
  cases e with
  | host x =>
    cases x with
    | read off bytes =>
      obtain rfl : bytes = 4 := eq_of_beq he
      exact ⟨readResponse off s, rfl⟩
    | write off bytes v =>
      obtain ⟨h4, hoff⟩ := Bool.and_eq_true_iff.mp he
      obtain rfl : bytes = 4 := eq_of_beq h4
      exact ⟨busRefused, memWrite_of_ne_cmd (bne_iff_ne.mp hoff) v s⟩
  | engine => exact ⟨s.bus, congrArg Host.Outcome.next (engineTurnWith_of_idle hashWrap hb)⟩
  | reset presented => cases he
  | idle => exact ⟨busQuiet, rfl⟩
  | otherMaster x => cases he
  | powerLoss => cases he

theorem runSteps_succ {s t : State} (h : step s = .next t) (n : Nat) :
    runSteps (n + 1) s = runSteps n t := by
  simp only [runSteps, h]

/-- A run of such events takes them off the schedule and drives the ports, and changes nothing else. -/
theorem runSteps_of_leavesRegisters {es post : List Event} {s : State} (hb : s.BUSY = false)
    (hes : es.all leavesRegisters = true) (hs : s.inputs = es ++ post) :
    ∃ out, runSteps es.length s = .next { s with inputs := post, bus := out } := by
  induction es generalizing s with
  | nil =>
    refine ⟨s.bus, ?_⟩
    subst hs
    rfl
  | cons e es ih =>
    obtain ⟨he, hes⟩ := Bool.and_eq_true_iff.mp hes
    obtain ⟨out, hout⟩ := takeEvent_of_leavesRegisters he (s := { s with inputs := es ++ post }) hb
    obtain ⟨last, hrun⟩ := ih (s := respond out { s with inputs := es ++ post }) hb hes rfl
    have hstep := (step_of_scheduled (rest := es ++ post) hs).trans hout
    exact ⟨last, (runSteps_succ hstep es.length).trans hrun⟩

/-- Settles O46: the run changes the schedule and the ports, and no register shows either. -/
theorem readsSeeOneResultSet : Obligations.ReadsSeeOneResultSet := by
  unfold Obligations.ReadsSeeOneResultSet
  intro s es post hb hes hs
  obtain ⟨out, hrun⟩ := runSteps_of_leavesRegisters hb hes hs
  exact ⟨_, hrun, rfl, hb, regValue_withInputsBus s post out⟩

end Sys2Proof.Machine
end

section
/-! The clock edge at which a hash completes: the transaction of the cycle acts on the state before the completion, and the
completion happens whatever it is (R52, R210, R230). -/

namespace Sys2Proof.Machine

theorem busEvent_of_write {p : Pins} (hsel : p.busSel = true) (hwe : p.busWe = true) :
    busEvent p = .host (.write p.busAddr 4 p.busWdata) := by
  simp only [busEvent, Pins.txn, hsel, hwe, if_true]

theorem busEvent_of_read {p : Pins} (hsel : p.busSel = true) (hwe : p.busWe = false) :
    busEvent p = .host (.read p.busAddr 4) := by
  simp only [busEvent, Pins.txn, hsel, hwe, if_true, Bool.false_eq_true, if_false]

theorem busEvent_of_unselected {p : Pins} (hsel : p.busSel = false) : busEvent p = .idle := by
  simp only [busEvent, Pins.txn, hsel, Bool.false_eq_true, if_false]

/-- What a completion writes depends on the pending hash only (R143). -/
theorem sameResults_engineTurn {s : State} {q : Pending} (hb : s.BUSY = true) (hq : s.PEND = some q)
    (t : State) : sameResults (engineTurn s) (completeWith hashWrap q t) := by
  rw [engineTurn, engineTurnWith_of_pend hashWrap hb hq]
  exact ⟨rfl, rfl, rfl, rfl, rfl⟩

section

variable (P : Params) {p : Pins} {c : Clocked} {q : Pending} (hrst : p.rstN = true)
  (hleft : c.left = some 1)

include hrst hleft

/-- At the edge of a completion, the pending hash completes in the state that the cycle's transaction leaves (R210). -/
theorem clockEdge_completes {t : State} (ht : takeEvent (busEvent p) c.block = .next t)
    (hb : t.BUSY = true) (hq : t.PEND = some q) :
    clockEdge P p c = .next ⟨completeWith hashWrap q t, none⟩ := by
  have hturn : engineTurn t = completeWith hashWrap q t := engineTurnWith_of_pend hashWrap hb hq
  rw [clockEdge_of_running P hrst ht, if_pos hleft, hturn, countdown_of_idle P _ _ rfl]

variable (hbusy : c.block.BUSY = true) (hq : c.block.PEND = some q)

include hbusy hq

/-- A cycle that only drives the ports answers as if no completion were due, and the completion happens (R52, R210). -/
theorem clockEdge_completes_of_respond {out : BusOut}
    (hout : takeEvent (busEvent p) c.block = .next (respond out c.block)) :
    ∃ d, clockEdge P p c = .next d ∧ d.block.bus = out ∧ d.block.OVR = c.block.OVR ∧
      d.block.BUSY = false ∧ sameResults (engineTurn c.block) d.block := by
  exact ⟨_, clockEdge_completes P hrst hleft hout hbusy hq, rfl, rfl, rfl,
    sameResults_engineTurn hbusy hq _⟩

/-- A CMD write in the cycle of a completion is dropped with OVR = 1, and the completion happens (R206, R210). -/
theorem clockEdge_completes_of_cmdWrite (hsel : p.busSel = true) (hwe : p.busWe = true)
    (haddr : p.busAddr = 0x00) :
    ∃ d, clockEdge P p c = .next d ∧ d.block.OVR = true ∧ d.block.BUSY = false ∧
      sameResults (engineTurn c.block) d.block ∧ d.block.BS = c.block.BS ∧
      d.block.COUNT = c.block.COUNT := by
  have hdrop : takeEvent (busEvent p) c.block = .next (overrun (ackWrite c.block)) := by
    rw [busEvent_of_write hsel hwe, haddr]
    exact (memWrite_cmd _ _).trans (commandWord_of_busy (s := ackWrite c.block) hbusy _)
  exact ⟨_, clockEdge_completes P hrst hleft hdrop hbusy hq, rfl, rfl,
    sameResults_engineTurn hbusy hq _, rfl, rfl⟩

/-- A read in the cycle of a completion answers as before it (R210). -/
theorem clockEdge_completes_of_read (hsel : p.busSel = true) (hwe : p.busWe = false) :
    ∃ d, clockEdge P p c = .next d ∧ d.block.bus = readResponse p.busAddr c.block ∧
      d.block.OVR = c.block.OVR ∧ d.block.BUSY = false ∧
      sameResults (engineTurn c.block) d.block := by
  apply clockEdge_completes_of_respond P hrst hleft hbusy hq
  rw [busEvent_of_read hsel hwe]
  rfl

end

/-- Settles O48: with `rst_n = 1` the transaction drives the ports or is a dropped word, and the pending hash completes
after it; with `rst_n = 0` there is only the reset edge. -/
theorem sameCycleHostComesFirst : Obligations.SameCycleHostComesFirst := by
  unfold Obligations.SameCycleHostComesFirst
  intro P c p hinv hbusy hleft
  obtain ⟨q, hq⟩ := Option.ne_none_iff_exists'.mp (hinv.busy_iff_pend.mp hbusy)
  refine ⟨fun hrst => clockEdge_completes_of_cmdWrite P hrst hleft hbusy hq,
    fun hrst hsel hwe haddr => ?status, fun hrst hsel hwe => ?read,
    fun hrst hsel hwe haddr => ?refused, fun hrst hsel => ?quiet, clockEdge_of_reset P c⟩
  case status =>
    obtain ⟨d, hd, hbus, -, hdone, hres⟩ :=
      clockEdge_completes_of_read P hrst hleft hbusy hq hsel hwe
    have hstatus : d.block.bus = ⟨statusWord c.block, false⟩ := by
      rw [hbus, haddr]
      exact readResponse_regOffset .status c.block
    obtain ⟨hbit, -⟩ := statusWord_flags c.block
    refine ⟨d, hd, hstatus, ?_, hdone, hres⟩
    rw [hstatus]
    exact hbit.trans hbusy
  case read =>
    obtain ⟨d, hd, hbus, hovr, hdone, hres⟩ :=
      clockEdge_completes_of_read P hrst hleft hbusy hq hsel hwe
    refine ⟨d, hd, hbus, fun r hr => ?_, hovr, hdone, hres⟩
    rw [hbus, hr, readResponse_regOffset]
  case refused =>
    apply clockEdge_completes_of_respond P hrst hleft hbusy hq
    rw [busEvent_of_write hsel hwe]
    exact memWrite_of_ne_cmd haddr _ c.block
  case quiet =>
    apply clockEdge_completes_of_respond P hrst hleft hbusy hq
    rw [busEvent_of_unselected hsel]
    rfl

end Sys2Proof.Machine
end

section
/-! The command word by its fields: the encoder's word in numbers, the decoder case by case, and the opcode map (R81 to R85). -/

namespace Sys2Proof

/-! ### The fields of an encoded word (R81, R83) -/

theorem toNat_enc (op : BitVec 4) (idx : Index) :
    (enc op idx).toNat = idx.toNat * 2 ^ 16 + op.toNat := by
  have hidx : idx.toNat < 2 ^ 11 := idx.isLt
  have hop : op.toNat < 2 ^ 16 := op.isLt.trans (by decide)
  rw [enc, BitVec.toNat_or, BitVec.toNat_shiftLeft, BitVec.toNat_setWidth, BitVec.toNat_setWidth,
    Nat.shiftLeft_eq, Nat.mod_eq_of_lt (show idx.toNat < 2 ^ 32 by omega),
    Nat.mod_eq_of_lt (show op.toNat < 2 ^ 32 by omega), Nat.mod_eq_of_lt (by omega), Nat.mul_comm,
    ← Nat.two_pow_add_eq_or_of_lt hop]

/-- The four fields are the whole word (R81). -/
theorem eq_enc_iff {v : Word} {op : BitVec 4} {idx : Index} :
    v = enc op idx ↔
      rsv1Field v = 0 ∧ rsv0Field v = 0 ∧ opField v = op ∧ idxField v = idx := by
  simp only [← BitVec.toNat_inj, toNat_enc, rsv1Field, rsv0Field, opField, idxField,
    BitVec.extractLsb'_toNat, Nat.shiftRight_eq_div_pow, BitVec.ofNat_eq_ofNat, BitVec.toNat_ofNat]
  have hv := v.isLt
  have hidx := idx.isLt
  have hop := op.isLt
  omega

@[simp] theorem rsv1Field_enc (op : BitVec 4) (idx : Index) : rsv1Field (enc op idx) = 0 :=
  (eq_enc_iff.mp rfl).1

@[simp] theorem rsv0Field_enc (op : BitVec 4) (idx : Index) : rsv0Field (enc op idx) = 0 :=
  (eq_enc_iff.mp rfl).2.1

@[simp] theorem opField_enc (op : BitVec 4) (idx : Index) : opField (enc op idx) = op :=
  (eq_enc_iff.mp rfl).2.2.1

@[simp] theorem idxField_enc (op : BitVec 4) (idx : Index) : idxField (enc op idx) = idx :=
  (eq_enc_iff.mp rfl).2.2.2

/-- A row of APPEND or TRY fixes every field but IDX (R83). -/
theorem and_rowMask_eq_enc_iff {v : Word} {op : BitVec 4} :
    v &&& 0xF800FFFF = enc op 0 ↔ rsv1Field v = 0 ∧ rsv0Field v = 0 ∧ opField v = op := by
  have hrsv1 : rsv1Field (v &&& 0xF800FFFF) = rsv1Field v :=
    BitVec.extractLsb'_and.trans BitVec.and_allOnes
  have hrsv0 : rsv0Field (v &&& 0xF800FFFF) = rsv0Field v :=
    BitVec.extractLsb'_and.trans BitVec.and_allOnes
  have hop : opField (v &&& 0xF800FFFF) = opField v :=
    BitVec.extractLsb'_and.trans BitVec.and_allOnes
  have hidx : idxField (v &&& 0xF800FFFF) = 0 :=
    BitVec.extractLsb'_and.trans BitVec.and_zero
  rw [eq_enc_iff, hrsv1, hrsv0, hop, hidx]
  simp only [and_true]

/-! ### The decoder (R84, R85) -/

/-- No test of R84 before a command's own takes its word. -/
theorem decode_encode (i : Instr) : decode (encode i) = .instr i := by
  cases i <;> simp [encode, decode]

/-- An opcode below 5 that is neither APPEND's nor TRY's is one of the three without an operand (R83). -/
theorem toNat_opcode_of_lt_five {op : BitVec 4} (hlt : op < 5) (h2 : op ≠ 2) (h4 : op ≠ 4) :
    op.toNat = 0 ∨ op.toNat = 1 ∨ op.toNat = 3 := by
  revert op
  decide

/-- Everything the decoder can answer: the three kinds of illegal word, or a command whose encoding the word is. -/
theorem decode_cases (v : Word) :
    ((rsv1Field v ≠ 0 ∨ rsv0Field v ≠ 0) ∧ decode v = .illegal .reservedBits) ∨
    (rsv1Field v = 0 ∧ rsv0Field v = 0 ∧ 5 ≤ (opField v).toNat ∧
      decode v = .illegal .reservedOpcode) ∨
    (rsv1Field v = 0 ∧ rsv0Field v = 0 ∧ idxField v ≠ 0 ∧
      ((opField v).toNat = 0 ∨ (opField v).toNat = 1 ∨ (opField v).toNat = 3) ∧
      decode v = .illegal .nonzeroIndex) ∨
    ∃ i, v = encode i := by
  by_cases hrsv : rsv1Field v ≠ 0 ∨ rsv0Field v ≠ 0
  · exact .inl ⟨hrsv, if_pos hrsv⟩
  obtain ⟨hrsv1, hrsv0⟩ : rsv1Field v = 0 ∧ rsv0Field v = 0 := by
    simpa only [not_or, not_not] using hrsv
  right
  rw [decode, if_neg hrsv]
  split_ifs with hnop hclear happend hvalidate htry hlow
  · exact .inr (.inr ⟨.nop, eq_enc_iff.mpr ⟨hrsv1, hrsv0, hnop⟩⟩)
  · exact .inr (.inr ⟨.clear, eq_enc_iff.mpr ⟨hrsv1, hrsv0, hclear⟩⟩)
  · exact .inr (.inr ⟨.append (idxField v), eq_enc_iff.mpr ⟨hrsv1, hrsv0, happend, rfl⟩⟩)
  · exact .inr (.inr ⟨.validate, eq_enc_iff.mpr ⟨hrsv1, hrsv0, hvalidate⟩⟩)
  · exact .inr (.inr ⟨.tryWord (idxField v), eq_enc_iff.mpr ⟨hrsv1, hrsv0, htry, rfl⟩⟩)
  · have hop := toNat_opcode_of_lt_five hlow happend htry
    refine .inr (.inl ⟨hrsv1, hrsv0, fun hidx => ?_, hop, rfl⟩)
    rcases hop with hop | hop | hop
    · exact hnop ⟨BitVec.eq_of_toNat_eq hop, hidx⟩
    · exact hclear ⟨BitVec.eq_of_toNat_eq hop, hidx⟩
    · exact hvalidate ⟨BitVec.eq_of_toNat_eq hop, hidx⟩
  · exact .inl ⟨hrsv1, hrsv0, BitVec.not_lt.mp hlow, rfl⟩

/-- A word means a command exactly when it is that command's encoding (R83, R84). -/
theorem decode_eq_instr_iff {v : Word} {i : Instr} : decode v = .instr i ↔ v = encode i := by
  constructor
  · intro h
    rcases decode_cases v with ⟨-, hd⟩ | ⟨-, -, -, hd⟩ | ⟨-, -, -, -, hd⟩ | ⟨j, rfl⟩
    · simp [hd] at h
    · simp [hd] at h
    · simp [hd] at h
    · rw [decode_encode] at h
      rw [Decoded.instr.inj h]
  · rintro rfl
    exact decode_encode i

/-- Settles O1: no test of the decoder takes a command's word before the command's own. -/
theorem decodeEncodeRoundTrip : Obligations.DecodeEncodeRoundTrip :=
  fun i _ => decode_encode i

/-- Settles O2: a word that is no command's encoding is of one of the three illegal kinds. -/
theorem encodeOfDecodedWord : Obligations.EncodeOfDecodedWord :=
  fun _ _ h => (decode_eq_instr_iff.mp h).symm

/-! ### The opcode map (R83) -/

/-- The row of APPEND, and of TRY: IDX is free, and every other field is fixed. -/
theorem eq_enc_iff_row {v : Word} {op : BitVec 4} {idx : Index} :
    v = enc op idx ↔ v &&& 0xF800FFFF = enc op 0 ∧ idx = v.extractLsb' 16 11 := by
  rw [eq_enc_iff, and_rowMask_eq_enc_iff, eq_comm (a := idx)]
  simp only [idxField, and_assoc]

/-- A row with every bit fixed has one word (R83). -/
theorem fits_fullMask {v p : Word} : OpcodeRow.fits ⟨0xFFFFFFFF, p⟩ v = true ↔ v = p := by
  rw [OpcodeRow.fits, beq_iff_eq]
  exact Eq.congr_left BitVec.and_allOnes

/-- A word of APPEND's or TRY's row is the encoding of its own index (R83). -/
theorem eq_enc_of_fits {v : Word} {op : BitVec 4}
    (h : OpcodeRow.fits ⟨0xF800FFFF, enc op 0⟩ v = true) : v = enc op (idxField v) :=
  eq_enc_iff_row.mpr ⟨eq_of_beq h, rfl⟩

/-- The words of the opcode map are the encodings (R83). -/
theorem legalWord_iff {v : Word} : legalWord v = true ↔ ∃ i, v = encode i := by
  constructor
  · intro h
    obtain ⟨row, hrow, hfits⟩ := List.any_eq_true.mp h
    simp only [opcodeRows, List.mem_cons, List.not_mem_nil, or_false] at hrow
    rcases hrow with rfl | rfl | rfl | rfl | rfl
    · exact ⟨.nop, fits_fullMask.mp hfits⟩
    · exact ⟨.clear, fits_fullMask.mp hfits⟩
    · exact ⟨.append (idxField v), eq_enc_of_fits hfits⟩
    · exact ⟨.validate, fits_fullMask.mp hfits⟩
    · exact ⟨.tryWord (idxField v), eq_enc_of_fits hfits⟩
  · rintro ⟨i, rfl⟩
    cases i with
    | nop => exact Laws.MatchesRow.nop.2.1
    | clear => exact Laws.MatchesRow.clear.2.1
    | append idx => exact (Laws.MatchesRow.append idx).2.1
    | validate => exact Laws.MatchesRow.validate.2.1
    | tryWord idx => exact (Laws.MatchesRow.tryWord idx).2.1

/-- The decoder and the opcode map agree on which words are illegal (R83, R84). -/
theorem exists_decode_eq_illegal_iff {v : Word} :
    (∃ why, decode v = .illegal why) ↔ legalWord v = false := by
  rw [← Bool.not_eq_true, legalWord_iff]
  simp only [← decode_eq_instr_iff]
  cases decode v <;> simp

/-- Settles O3: a word decodes to a command exactly when it is its encoding, whose fields a row of the map writes out. -/
theorem decoderMatchesOpcodeMap : Obligations.DecoderMatchesOpcodeMap := by
  unfold Obligations.DecoderMatchesOpcodeMap
  refine ⟨fun v => ⟨decode_eq_instr_iff, decode_eq_instr_iff, fun idx => ?_, decode_eq_instr_iff,
    fun idx => ?_, exists_decode_eq_illegal_iff⟩, fun idx => ⟨toNat_enc 2 idx, toNat_enc 4 idx⟩,
    rfl, rfl, rfl⟩
  · exact decode_eq_instr_iff.trans eq_enc_iff_row
  · exact decode_eq_instr_iff.trans eq_enc_iff_row

/-! ### Counting the legal words (R84) -/

theorem encode_injective : Function.Injective encode := by
  intro i j h
  have hd := congrArg decode h
  rw [decode_encode, decode_encode] at hd
  exact Decoded.instr.inj hd

/-- A command is one of the three without an operand, or an APPEND or a TRY with its index (R83). -/
def instrEquiv : Instr ≃ Fin 3 ⊕ Index ⊕ Index where
  toFun
    | .nop => .inl 0
    | .clear => .inl 1
    | .validate => .inl 2
    | .append idx => .inr (.inl idx)
    | .tryWord idx => .inr (.inr idx)
  invFun
    | .inl 0 => .nop
    | .inl 1 => .clear
    | .inl 2 => .validate
    | .inr (.inl idx) => .append idx
    | .inr (.inr idx) => .tryWord idx
  left_inv i := by cases i <;> rfl
  right_inv
    | .inl 0 => rfl
    | .inl 1 => rfl
    | .inl 2 => rfl
    | .inr (.inl _) => rfl
    | .inr (.inr _) => rfl

theorem card_index : Nat.card Index = 2048 := by
  rw [Nat.card_congr BitVec.equivFin.toEquiv, Nat.card_fin]
  norm_num

theorem card_instr : Nat.card Instr = 4099 := by
  rw [Nat.card_congr instrEquiv, Nat.card_sum, Nat.card_sum, Nat.card_fin, card_index]

/-- Settles O4: the legal words are the encodings, one for each command. -/
theorem legalWordCount : Obligations.LegalWordCount := by
  unfold Obligations.LegalWordCount
  have hlegal : {v : Word | ∃ i, decode v = .instr i} = Set.range encode := by
    ext v
    simp only [Set.mem_ofPred_eq, Set.mem_range, decode_eq_instr_iff, eq_comm]
  rw [hlegal, ← Nat.card_coe_set_eq, Nat.card_range_of_injective encode_injective, card_instr]

/-! ### The illegal words (R85) -/

/-- A command's word meets no condition of R85. -/
theorem encode_fields (i : Instr) :
    rsv1Field (encode i) = 0 ∧ rsv0Field (encode i) = 0 ∧ (opField (encode i)).toNat < 5 ∧
      (idxField (encode i) ≠ 0 →
        (opField (encode i)).toNat = 2 ∨ (opField (encode i)).toNat = 4) := by
  cases i <;> simp [encode]

/-- The three kinds of R85 by the fields of R81: the conditions exclude each other, and no command meets one. -/
theorem decode_eq_illegal_iff (v : Word) :
    (decode v = .illegal .reservedBits ↔ rsv1Field v ≠ 0 ∨ rsv0Field v ≠ 0) ∧
    (decode v = .illegal .reservedOpcode ↔
      rsv1Field v = 0 ∧ rsv0Field v = 0 ∧ 5 ≤ (opField v).toNat) ∧
    (decode v = .illegal .nonzeroIndex ↔
      rsv1Field v = 0 ∧ rsv0Field v = 0 ∧ idxField v ≠ 0 ∧
        ((opField v).toNat = 0 ∨ (opField v).toNat = 1 ∨ (opField v).toNat = 3)) := by
  rcases decode_cases v with ⟨hrsv, hd⟩ | ⟨hrsv1, hrsv0, hop, hd⟩ |
    ⟨hrsv1, hrsv0, hidx, hop, hd⟩ | ⟨i, rfl⟩
  · grind
  · grind
  · grind
  · have hfields := encode_fields i
    have hd := decode_encode i
    grind

/-- Settles O5: the fields of R81 are these parts of the word. -/
theorem illegalWordKinds : Obligations.IllegalWordKinds :=
  decode_eq_illegal_iff

/-- Settles O6: each word by the fields written out in it. -/
theorem sampleWordsDecode : Obligations.SampleWordsDecode := by
  unfold Obligations.SampleWordsDecode
  decide

end Sys2Proof
end

section
/-! The schedule drives the block and nothing reads it: the steps of a schedule are the run of its events (R11). -/

namespace Sys2Proof.Machine

theorem hashOrWordCount_withInputs (L : Nat) (M : BitString) (s : State) (inputs : List Event) :
    hashOrWordCount L M { s with inputs := inputs } =
      { hashOrWordCount L M s with inputs := inputs } := by
  unfold hashOrWordCount
  split <;> rfl

theorem acceptedEffect_withInputs (i : Instr) (s : State) (inputs : List Event) :
    acceptedEffect i { s with inputs := inputs } =
      { acceptedEffect i s with inputs := inputs } := by
  cases i with
  | nop => rfl
  | clear => rfl
  | append idx => simp only [acceptedEffect]; split <;> rfl
  | validate => exact hashOrWordCount_withInputs ..
  | tryWord idx => exact hashOrWordCount_withInputs ..

theorem command_withInputs {body : State → State} {inputs : List Event}
    (hbody : ∀ s, body { s with inputs := inputs } = { body s with inputs := inputs }) (s : State) :
    command body { s with inputs := inputs } = { command body s with inputs := inputs } := by
  unfold command
  split
  · rfl
  · exact hbody (accept s)

theorem commandWord_withInputs {v : Word} {s t : State} (h : commandWord v s = .next t)
    (inputs : List Event) :
    commandWord v { s with inputs := inputs } = .next { t with inputs := inputs } := by
  cases hd : decode v with
  | instr i =>
    rw [commandWord_of_instr hd, exec_eq_command] at h ⊢
    obtain rfl := Host.Outcome.next.inj h
    exact congrArg _ (command_withInputs (acceptedEffect_withInputs i · inputs) s)
  | illegal why =>
    rw [commandWord_of_illegal hd] at h ⊢
    obtain rfl := Host.Outcome.next.inj h
    exact congrArg _ (command_withInputs (fun _ => rfl) s)

/-- No response shows the schedule (R20). -/
theorem readResponse_withInputs (off : Offset) (s : State) (inputs : List Event) :
    readResponse off { s with inputs := inputs } = readResponse off s := by
  by_cases he : readError off = none
  · obtain ⟨r, rfl⟩ := readError_eq_none.mp he
    rw [readResponse_regOffset, readResponse_regOffset]
    exact congrArg (BusOut.mk · false) (regValue_withInputsBus s inputs s.bus r)
  · rw [readResponse_of_error he, readResponse_of_error he]

/-- An event acts the same whatever is scheduled after it, and leaves that as it is (R11). -/
theorem takeEvent_withInputs {e : Event} {s t : State} (h : takeEvent e s = .next t)
    (inputs : List Event) :
    takeEvent e { s with inputs := inputs } = .next { t with inputs := inputs } := by
  cases e with
  | host x =>
    cases x with
    | read off bytes =>
      by_cases hn : bytes = 4
      · subst hn
        obtain rfl := Host.Outcome.next.inj h
        rw [← readResponse_withInputs off s inputs]
        rfl
      · simp [takeEvent, hostTransaction, hn] at h
    | write off bytes v =>
      by_cases hn : bytes = 4
      · subst hn
        change memWrite off v s = .next t at h
        change memWrite off v { s with inputs := inputs } = _
        by_cases hoff : off = 0x00
        · subst hoff
          rw [memWrite_cmd] at h ⊢
          exact commandWord_withInputs h inputs
        · rw [memWrite_of_ne_cmd hoff] at h ⊢
          obtain rfl := Host.Outcome.next.inj h
          rfl
      · simp [takeEvent, hostTransaction, hn] at h
  | engine =>
    obtain rfl := Host.Outcome.next.inj h
    exact congrArg Host.Outcome.next (engineTurn_withInputs s inputs)
  | reset presented =>
    obtain rfl := Host.Outcome.next.inj h
    rfl
  | idle =>
    obtain rfl := Host.Outcome.next.inj h
    rfl
  | otherMaster x => cases h
  | powerLoss => cases h

theorem takeEvent_inputs {e : Event} {s t : State} (h : takeEvent e s = .next t) :
    t.inputs = s.inputs := by
  have hsame : takeEvent e s = .next { t with inputs := s.inputs } :=
    takeEvent_withInputs h s.inputs
  rw [Host.Outcome.next.inj (h.symm.trans hsame)]

/-! ### Runs of events -/

theorem runEvents_cons_of_next {e : Event} {s t : State} (h : takeEvent e s = .next t)
    (es : List Event) : runEvents (e :: es) s = runEvents es t := by
  simp only [runEvents, h]

theorem exists_of_runEvents_cons {e : Event} {es : List Event} {s t : State}
    (h : runEvents (e :: es) s = .next t) :
    ∃ u, takeEvent e s = .next u ∧ runEvents es u = .next t := by
  cases hu : takeEvent e s with
  | next u => exact ⟨u, rfl, (runEvents_cons_of_next hu es).symm.trans h⟩
  | fault r => simp [runEvents, hu] at h
  | refused r => simp [runEvents, hu] at h

/-- What follows a run goes on from where it ended. -/
theorem runEvents_append {es : List Event} {s t : State} (h : runEvents es s = .next t)
    (fs : List Event) : runEvents (es ++ fs) s = runEvents fs t := by
  induction es generalizing s with
  | nil =>
    obtain rfl := Host.Outcome.next.inj h
    rfl
  | cons e es ih =>
    obtain ⟨u, hu, hrun⟩ := exists_of_runEvents_cons h
    exact (runEvents_cons_of_next hu _).trans (ih hrun)

theorem runEvents_inputs {es : List Event} {s t : State} (h : runEvents es s = .next t) :
    t.inputs = s.inputs := by
  induction es generalizing s with
  | nil =>
    obtain rfl := Host.Outcome.next.inj h
    rfl
  | cons e es ih =>
    obtain ⟨u, hu, hrun⟩ := exists_of_runEvents_cons h
    exact (ih hrun).trans (takeEvent_inputs hu)

/-- The steps of a schedule are the run of its events, with what is scheduled after them left over (R11). -/
theorem runSteps_of_runEvents {es post : List Event} {s t : State} (hs : s.inputs = es ++ post)
    (h : runEvents es { s with inputs := post } = .next t) : runSteps es.length s = .next t := by
  induction es generalizing s with
  | nil =>
    subst hs
    exact h
  | cons e es ih =>
    obtain ⟨u, hu, hrun⟩ := exists_of_runEvents_cons h
    have hstep : step s = .next { u with inputs := es ++ post } :=
      (step_of_scheduled hs).trans (takeEvent_withInputs hu (es ++ post))
    obtain rfl := takeEvent_inputs hu
    exact (runSteps_succ hstep es.length).trans (ih rfl hrun)

end Sys2Proof.Machine
end

section
/-! What the pseudo-instructions of R89 are made of: a command, the polls of WAIT with the engine's turn, and a read. -/

namespace Sys2Proof.Machine

theorem takeEvent_cmdEvent {s : State} (hb : s.BUSY = false) (i : Instr) :
    takeEvent (cmdEvent i) s = .next (acceptedEffect i (accept (ackWrite s))) := by
  have hwrite : takeEvent (cmdEvent i) s = commandWord (encode i) (ackWrite s) :=
    memWrite_cmd (encode i) s
  rw [hwrite, commandWord_of_instr (decode_encode i), exec_eq_command,
    command_of_idle (s := ackWrite s) hb]

theorem takeEvent_readEvent (r : Reg) (s : State) :
    takeEvent (readEvent r) s = .next (respond ⟨regValue s r, false⟩ s) := by
  rw [← readResponse_regOffset]
  rfl

/-- The engine neither reads nor drives the ports (R133). -/
theorem engineTurn_respond (out : BusOut) (s : State) :
    engineTurn (respond out s) = respond out (engineTurn s) := by
  simp only [engineTurn, engineTurnWith, respond]
  split <;> rfl

/-- Polls drive the ports and change nothing else (R57). -/
theorem runEvents_polls (polls : Nat) (s : State) :
    ∃ out, runEvents (List.replicate polls (readEvent .status)) s = .next (respond out s) := by
  induction polls generalizing s with
  | zero => exact ⟨s.bus, rfl⟩
  | succ polls ih =>
    obtain ⟨out, hrun⟩ := ih (respond ⟨statusWord s, false⟩ s)
    exact ⟨out, (runEvents_cons_of_next (takeEvent_readEvent .status s) _).trans hrun⟩

/-- WAIT and a read of STATUS: the engine has its turn, and STATUS is on the bus (R89). -/
theorem runEvents_waitEvents_read (polls : Nat) (s : State) :
    runEvents (waitEvents polls ++ [readEvent .status]) s =
      .next (respond ⟨statusWord (engineTurn s), false⟩ (engineTurn s)) := by
  obtain ⟨out, hpolls⟩ := runEvents_polls polls s
  rw [waitEvents, List.append_assoc, runEvents_append hpolls]
  have hturn : takeEvent .engine (respond out s) = .next (respond out (engineTurn s)) :=
    congrArg _ (engineTurn_respond out s)
  rw [List.cons_append, runEvents_cons_of_next hturn]
  rfl

/-- The block when an accepted command, and the hash that it starts, have completed (R62, R133). -/
def afterCommand (i : Instr) (s : State) : State := engineTurn (acceptedEffect i (accept s))

/-- A command with a WAIT and a read of STATUS: what it starts has completed, and STATUS is on the bus (R89). -/
theorem runEvents_command_wait_read {s : State} (hb : s.BUSY = false) (i : Instr) (polls : Nat) :
    runEvents (cmdEvent i :: (waitEvents polls ++ [readEvent .status])) s =
      .next (respond ⟨statusWord (afterCommand i (ackWrite s)), false⟩
        (afterCommand i (ackWrite s))) := by
  rw [runEvents_cons_of_next (takeEvent_cmdEvent hb i), runEvents_waitEvents_read]
  rfl

/-! ### The word-count check and the completion (R130, R133, R135) -/

theorem engineTurnWith_hashOrWordCount_of_lok (hash : HashFn) {L : Nat} (h : lok L = true)
    (M : BitString) (s : State) :
    engineTurnWith hash (hashOrWordCount L M s) =
      completeWith hash ⟨BitVec.ofNat 5 L, M⟩ (startHash L M s) := by
  rw [hashOrWordCount, if_pos h]
  rfl

theorem engineTurnWith_hashOrWordCount_of_not_lok (hash : HashFn) {L : Nat} (h : lok L = false)
    (M : BitString) {s : State} (hb : s.BUSY = false) :
    engineTurnWith hash (hashOrWordCount L M s) = raiseCmdError .wordCount s := by
  rw [hashOrWordCount, h]
  exact engineTurnWith_of_idle hash hb

/-- The comparator's verdict as numbers (R135). -/
theorem completeWith_VALID_iff (hash : HashFn) (p : Pending) (s : State) :
    (completeWith hash p s).VALID = true ↔
      expectedChecksum hash p.PL.toNat p.PM.toNat = p.PM.toNat % 2 ^ (p.PL.toNat / 3) := by
  have hcs : csOf p.PL.toNat ≤ 256 := by
    unfold csOf
    omega
  rw [completeWith_VALID, comparator_iff, toNat_checksum _ hcs, toNat_received, entropy_eq_ofNat]
  rfl

end Sys2Proof.Machine
end

section
/-! CHECKM: LOAD puts the words into BS, VALIDATE judges them, and the STATUS value read last says so (R89, R141, R237). -/

namespace Sys2Proof.Machine

/-- An idle block without an overrun whose bit string is the packed list `is` (R104). -/
structure Loaded (is : List Index) (s : State) : Prop where
  represents : Represents is s
  busy : s.BUSY = false
  ovr : s.OVR = false

/-! ### LOAD -/

theorem Loaded.ackWrite {is : List Index} {s : State} (h : Loaded is s) : Loaded is (ackWrite s) :=
  ⟨⟨h.represents.count, h.represents.bits⟩, h.busy, h.ovr⟩

theorem Loaded.respond {is : List Index} {s : State} (h : Loaded is s) (out : BusOut) :
    Loaded is (respond out s) :=
  ⟨⟨h.represents.count, h.represents.bits⟩, h.busy, h.ovr⟩

theorem loaded_clear {s : State} (hb : s.BUSY = false) :
    Loaded [] (acceptedEffect .clear (accept s)) :=
  ⟨⟨rfl, (BitVec.zero_shiftLeft _).symm⟩, hb, rfl⟩

/-- An accepted APPEND writes the slot after the last word (R103, R104). -/
theorem Loaded.append {is : List Index} {s : State} (h : Loaded is s) (hlen : is.length < 24)
    (i : Index) : Loaded (is ++ [i]) (acceptedEffect (.append i) (accept s)) := by
  obtain ⟨⟨hcount, hbits⟩, hbusy, hovr⟩ := h
  have hne : s.COUNT ≠ 24 := fun h24 => by
    rw [h24] at hcount
    exact hlen.ne' hcount
  obtain ⟨-, hsucc⟩ := toNat_count_succ (by omega) hne
  rw [acceptedEffect, accept_COUNT, if_neg hne]
  refine ⟨⟨?_, ?_⟩, hbusy, hovr⟩
  · rw [List.length_append, ← hcount]
    exact hsucc
  · rw [List.length_append, List.length_singleton, pack_append_shiftLeft is i hlen, ← hbits,
      ← hcount]
    rfl

theorem Loaded.runEvents_appends {is js : List Index} {s : State} (h : Loaded is s)
    (hlen : (is ++ js).length ≤ 24) :
    ∃ t, runEvents (js.map fun i => cmdEvent (.append i)) s = .next t ∧ Loaded (is ++ js) t := by
  induction js generalizing is s with
  | nil => exact ⟨s, rfl, by rwa [List.append_nil]⟩
  | cons i js ih =>
    rw [List.append_cons] at hlen ⊢
    have hlt : is.length < 24 := by
      simp only [List.length_append, List.length_singleton] at hlen
      omega
    obtain ⟨t, hrun, ht⟩ := ih (h.ackWrite.append hlt i) hlen
    exact ⟨t, (runEvents_cons_of_next (takeEvent_cmdEvent h.busy _) _).trans hrun, ht⟩

theorem runEvents_loadEvents {is : List Index} {s : State} (hb : s.BUSY = false)
    (hlen : is.length ≤ 24) : ∃ t, runEvents (loadEvents is) s = .next t ∧ Loaded is t := by
  obtain ⟨t, hrun, ht⟩ := (loaded_clear (s := ackWrite s) hb).runEvents_appends hlen
  exact ⟨t, (runEvents_cons_of_next (takeEvent_cmdEvent hb _) _).trans hrun, ht⟩

/-! ### VALIDATE -/

/-- The first words of a left-aligned packed list are the packed list (R104, R131). -/
theorem firstWords_pack_shiftLeft (is : List Index) (hlen : is.length ≤ 24) :
    firstWords (pack is <<< (264 - 11 * is.length)) is.length = pack is := by
  have hlt := pack_toNat_lt is hlen
  apply BitVec.eq_of_toNat_eq
  rw [toNat_firstWords, BitVec.toNat_shiftLeft, Nat.shiftLeft_eq, Nat.mod_eq_of_lt,
    Nat.mul_div_cancel _ (Nat.two_pow_pos _)]
  calc (pack is).toNat * 2 ^ (264 - 11 * is.length)
      < 2 ^ (11 * is.length) * 2 ^ (264 - 11 * is.length) :=
        Nat.mul_lt_mul_of_pos_right hlt (Nat.two_pow_pos _)
    _ = 2 ^ 264 := by rw [← pow_add]; congr 1; omega

/-- VALIDATE checks the packed list of the words in BS (R131). -/
theorem Loaded.acceptedEffect_validate {is : List Index} {s : State} (h : Loaded is s)
    (hlen : is.length ≤ 24) :
    acceptedEffect .validate (accept s) = hashOrWordCount is.length (pack is) (accept s) := by
  rw [← firstWords_pack_shiftLeft is hlen, ← h.represents.bits, ← h.represents.count]
  rfl

/-- VALIDATE of a supported number of words ends with the comparator's verdict on the packed list, and VALIDATE of any
other number with WORD_COUNT (R131, R135, R202). -/
theorem Loaded.afterCommand_validate {is : List Index} {s t : State} (h : Loaded is s)
    (hlen : is.length ≤ 24) (ht : t = afterCommand .validate s) :
    Loaded is t ∧ t.DONE = true ∧
      (is.length ∈ [12, 15, 18, 21, 24] → t.ERR = .noError ∧
        (t.VALID = true ↔ expectedChecksum hashWrap is.length (pack is).toNat =
          (pack is).toNat % 2 ^ (is.length / 3))) ∧
      (is.length ∉ [12, 15, 18, 21, 24] → t.ERR = .wordCount ∧ t.VALID = false) := by
  rw [afterCommand, h.acceptedEffect_validate hlen] at ht
  by_cases hL : is.length ∈ [12, 15, 18, 21, 24]
  · have hlok := lok_iff_mem.mpr hL
    rw [engineTurn, engineTurnWith_hashOrWordCount_of_lok hashWrap hlok] at ht
    subst ht
    rw [completeWith_VALID_iff, toNat_ofNat_length hlok]
    exact ⟨⟨⟨h.represents.count, h.represents.bits⟩, rfl, h.ovr⟩, rfl, fun _ => ⟨rfl, Iff.rfl⟩,
      fun hn => absurd hL hn⟩
  · have hidle : (accept s).BUSY = false := h.busy
    rw [engineTurn,
      engineTurnWith_hashOrWordCount_of_not_lok hashWrap (lok_false_iff.mpr hL) _ hidle] at ht
    subst ht
    exact ⟨⟨⟨h.represents.count, h.represents.bits⟩, h.busy, h.ovr⟩, rfl, fun hn => absurd hn hL,
      fun _ => ⟨rfl, rfl⟩⟩

/-! ### The verdict (R237) -/

theorem judges_statusWord_iff (s : State) :
    judges (statusWord s) = true ↔
      s.BUSY = false ∧ s.DONE = true ∧ s.ERR = .noError ∧ s.OVR = false := by
  obtain ⟨hbusy, hdone, -, hovr, -⟩ := statusWord_flags s
  obtain ⟨herr, -⟩ := statusWord_fields s
  have hcode : s.ERR.code = 0#3 ↔ s.ERR = .noError := by
    cases s.ERR <;> decide
  rw [judges, hbusy, hdone, hovr, herr]
  simp [hcode, and_assoc]

theorem runEvents_checkmEvents {is : List Index} {s : State} (hb : s.BUSY = false)
    (hlen : is.length ≤ 24) (polls : Nat) :
    ∃ l, Loaded is l ∧ runEvents (checkmEvents polls is) s =
      .next (respond ⟨statusWord (afterCommand .validate l), false⟩
        (afterCommand .validate l)) := by
  obtain ⟨l, hload, hl⟩ := runEvents_loadEvents hb hlen
  exact ⟨ackWrite l, hl.ackWrite,
    (runEvents_append hload _).trans (runEvents_command_wait_read hl.busy .validate polls)⟩

/-- Settles O49: LOAD ends with the words in BS, VALIDATE and its completion judge them, and the last read of STATUS
shows the flags they leave. -/
theorem checkmDecidesValidity : Obligations.CheckmDecidesValidity := by
  unfold Obligations.CheckmDecidesValidity
  intro s is polls post hb hlen hs
  obtain ⟨l, hl, hrun⟩ := runEvents_checkmEvents (s := { s with inputs := post }) hb hlen polls
  refine ⟨_, runSteps_of_runEvents hs hrun, runEvents_inputs hrun, ?_⟩
  obtain ⟨hloaded, hdone, hsupported, hother⟩ := hl.afterCommand_validate hlen rfl
  refine ⟨(hloaded.respond _).represents, hloaded.busy, hdone, hloaded.ovr, rfl, fun hL => ?_,
    fun hL => ?_⟩
  · obtain ⟨herr, hvalid⟩ := hsupported hL
    exact ⟨herr, (judges_statusWord_iff _).mpr ⟨hloaded.busy, hdone, herr, hloaded.ovr⟩, hvalid⟩
  · obtain ⟨herr, hvalid⟩ := hother hL
    refine ⟨herr, hvalid, Bool.eq_false_iff.mpr fun hjudges => ?_⟩
    obtain ⟨-, -, hnone, -⟩ := (judges_statusWord_iff _).mp hjudges
    rw [herr] at hnone
    cases hnone

end Sys2Proof.Machine
end

section
/-! SCAN: which last words complete the words in BS, how many they are, and that the host's loop records exactly these (R89, R138, R141). -/

namespace Sys2Proof.Machine

/-! ### The verdict of TRY (R132, R135) -/

theorem tryVerdict_of_idle (hash : HashFn) {s : State} (hb : s.BUSY = false) (idx : Index) :
    tryVerdict hash s idx =
      (engineTurnWith hash (acceptedEffect (.tryWord idx) (accept s))).VALID := by
  rw [tryVerdict, exec_eq_command, command_of_idle hb]

/-- TRY of a supported length completes within its own hash, whatever the digest function (R132, R133). -/
theorem engineTurnWith_tryWord (hash : HashFn) {s : State}
    (hL : s.COUNT.toNat + 1 ∈ [12, 15, 18, 21, 24]) (idx : Index) :
    engineTurnWith hash (acceptedEffect (.tryWord idx) (accept s)) =
      completeWith hash ⟨BitVec.ofNat 5 (s.COUNT.toNat + 1), withCandidate s.BS s.COUNT.toNat idx⟩
        (startHash (s.COUNT.toNat + 1) (withCandidate s.BS s.COUNT.toNat idx) (accept s)) :=
  engineTurnWith_hashOrWordCount_of_lok hash (lok_iff_mem.mpr hL) _ _

/-- TRY idx is valid iff the low CS bits of idx are the checksum of the words in BS followed by idx (R135, R138). -/
theorem tryVerdict_iff (hash : HashFn) {s : State} (hb : s.BUSY = false)
    (hL : s.COUNT.toNat + 1 ∈ [12, 15, 18, 21, 24]) (idx : Index) :
    tryVerdict hash s idx = true ↔
      idx.toNat % 2 ^ ((s.COUNT.toNat + 1) / 3) =
        expectedChecksum hash (s.COUNT.toNat + 1)
          (s.BS.toNat / 2 ^ (264 - 11 * s.COUNT.toNat) * 2 ^ 11 + idx.toNat) := by
  obtain ⟨-, -, hcs, -, hdiv, -, hlen⟩ := length_table hL
  have hmod (pre : Nat) : (pre * 2 ^ 11 + idx.toNat) % 2 ^ ((s.COUNT.toNat + 1) / 3) =
      idx.toNat % 2 ^ ((s.COUNT.toNat + 1) / 3) := by
    obtain ⟨k, hk⟩ : 2 ^ ((s.COUNT.toNat + 1) / 3) ∣ 2 ^ 11 := Nat.pow_dvd_pow 2 (by omega)
    rw [hk, Nat.mul_left_comm, Nat.mul_add_mod]
  rw [tryVerdict_of_idle hash hb, engineTurnWith_tryWord hash hL, completeWith_VALID_iff,
    toNat_ofNat_length (lok_iff_mem.mpr hL), toNat_withCandidate _ _ (by omega), hmod, eq_comm]

/-- The verdict depends on the words in BS only (R138). -/
theorem tryVerdict_congr (hash : HashFn) {s t : State} (hs : s.BUSY = false) (ht : t.BUSY = false)
    (hL : s.COUNT.toNat + 1 ∈ [12, 15, 18, 21, 24]) (hBS : t.BS = s.BS)
    (hCOUNT : t.COUNT = s.COUNT) :
    tryVerdict hash t = tryVerdict hash s := by
  funext idx
  rw [Bool.eq_iff_iff, tryVerdict_iff hash ht (by rwa [hCOUNT]), tryVerdict_iff hash hs hL, hBS,
    hCOUNT]

/-! ### Counting the completions (R138) -/

/-- An index is its leading 11 − c bits and its last c bits: when the last are a function of the leading ones, the
leading ones choose it. -/
theorem ncard_low_bits_eq {c : Nat} (hc : c ≤ 11) {f : Nat → Nat} (hf : ∀ x, f x < 2 ^ c) :
    Set.ncard {idx : Index | idx.toNat % 2 ^ c = f (idx.toNat / 2 ^ c)} = 2 ^ (11 - c) := by
  have hpow : 2 ^ (11 - c) * 2 ^ c = 2 ^ 11 := by rw [← pow_add, Nat.sub_add_cancel hc]
  rw [← Finset.card_range (2 ^ (11 - c)), ← Set.ncard_coe_finset]
  refine Set.ncard_congr (fun idx _ => idx.toNat / 2 ^ c) ?maps ?inj ?surj
  case maps =>
    intro idx _
    rw [Finset.mem_coe, Finset.mem_range, Nat.div_lt_iff_lt_mul (Nat.two_pow_pos c), hpow]
    exact idx.isLt
  case inj =>
    intro i j hi hj hij
    apply BitVec.eq_of_toNat_eq
    rw [← Nat.div_add_mod i.toNat (2 ^ c), ← Nat.div_add_mod j.toNat (2 ^ c), hi, hj, hij]
  case surj =>
    intro x hx
    have hlow := hf x
    have hlt : 2 ^ c * x + f x < 2 ^ 11 := by
      have hx' : x + 1 ≤ 2 ^ (11 - c) := Finset.mem_range.mp hx
      calc 2 ^ c * x + f x < 2 ^ c * (x + 1) := by rw [Nat.mul_succ]; omega
        _ ≤ 2 ^ c * 2 ^ (11 - c) := Nat.mul_le_mul_left _ hx'
        _ = 2 ^ 11 := by rw [Nat.mul_comm, hpow]
    have hdiv : (2 ^ c * x + f x) / 2 ^ c = x := by
      rw [Nat.mul_add_div (Nat.two_pow_pos c), Nat.div_eq_of_lt hlow, Nat.add_zero]
    have hmod : (2 ^ c * x + f x) % 2 ^ c = f x := by
      rw [Nat.mul_add_mod, Nat.mod_eq_of_lt hlow]
    have htoNat : (BitVec.ofNat 11 (2 ^ c * x + f x)).toNat = 2 ^ c * x + f x := by
      rw [BitVec.toNat_ofNat, Nat.mod_eq_of_lt hlt]
    refine ⟨BitVec.ofNat 11 (2 ^ c * x + f x), ?_, ?_⟩
    · rw [Set.mem_ofPred_eq, htoNat, hdiv, hmod]
    · rw [htoNat, hdiv]

theorem expectedChecksum_lt (hash : HashFn) {L : Nat} (M : Nat) (h : L / 3 ≤ 256) :
    expectedChecksum hash L M < 2 ^ (L / 3) := by
  apply Nat.div_lt_of_lt_mul
  rw [← pow_add, Nat.sub_add_cancel h]
  exact BitVec.isLt _

/-- The last CS bits take no part in the expected checksum (R134). -/
theorem expectedChecksum_congr (hash : HashFn) {L M N : Nat}
    (h : M / 2 ^ (L / 3) = N / 2 ^ (L / 3)) :
    expectedChecksum hash L M = expectedChecksum hash L N := by
  rw [expectedChecksum, expectedChecksum, h]

/-- Exactly 2^(11−CS) candidates complete the words in BS, whatever the digest function (R138). -/
theorem ncard_tryVerdict (hash : HashFn) {s : State} (hb : s.BUSY = false)
    (hL : s.COUNT.toNat + 1 ∈ [12, 15, 18, 21, 24]) :
    Set.ncard {idx : Index | tryVerdict hash s idx = true} =
      2 ^ (11 - (s.COUNT.toNat + 1) / 3) := by
  obtain ⟨-, -, hcs8, -, hcs, -, -⟩ := length_table hL
  rw [hcs] at hcs8
  simp only [tryVerdict_iff hash hb hL]
  generalize s.BS.toNat / 2 ^ (264 - 11 * s.COUNT.toNat) = pre
  have hlead (idx : Index) :
      expectedChecksum hash (s.COUNT.toNat + 1) (pre * 2 ^ 11 + idx.toNat) =
        expectedChecksum hash (s.COUNT.toNat + 1) (pre * 2 ^ 11 +
          2 ^ ((s.COUNT.toNat + 1) / 3) * (idx.toNat / 2 ^ ((s.COUNT.toNat + 1) / 3))) := by
    apply expectedChecksum_congr
    obtain ⟨k, hk⟩ : 2 ^ ((s.COUNT.toNat + 1) / 3) ∣ 2 ^ 11 := Nat.pow_dvd_pow 2 (by omega)
    rw [hk, Nat.mul_left_comm, Nat.mul_add_div (Nat.two_pow_pos _), ← Nat.mul_add,
      Nat.mul_div_cancel_left _ (Nat.two_pow_pos _)]
  simp only [hlead]
  exact ncard_low_bits_eq (by omega) fun x =>
    expectedChecksum_lt hash (pre * 2 ^ 11 + 2 ^ ((s.COUNT.toNat + 1) / 3) * x) (by omega)

/-! ### The host's list of candidates -/

theorem mem_allIndices (idx : Index) : idx ∈ allIndices :=
  List.mem_map.mpr ⟨idx.toNat, List.mem_range.mpr idx.isLt, BitVec.ofNat_toNat ..⟩

theorem nodup_allIndices : allIndices.Nodup := by
  refine List.Nodup.map_on (fun i hi j hj hij => ?_) List.nodup_range
  have htoNat := congrArg BitVec.toNat hij
  rwa [BitVec.toNat_ofNat, BitVec.toNat_ofNat, Nat.mod_eq_of_lt (List.mem_range.mp hi),
    Nat.mod_eq_of_lt (List.mem_range.mp hj)] at htoNat

theorem length_filter_allIndices (p : Index → Bool) :
    (allIndices.filter p).length = Set.ncard {idx : Index | p idx = true} := by
  have hset : {idx : Index | p idx = true} = ((allIndices.filter p).toFinset : Set Index) := by
    ext idx
    simp [mem_allIndices]
  rw [hset, Set.ncard_coe_finset, List.toFinset_card_of_nodup (nodup_allIndices.filter p)]

/-! ### SCAN -/

/-- A TRY of a supported length leaves the block idle, with BS as it was (R132, R133). -/
theorem afterCommand_tryWord_frame {s : State} (hL : s.COUNT.toNat + 1 ∈ [12, 15, 18, 21, 24])
    (idx : Index) :
    (afterCommand (.tryWord idx) s).BUSY = false ∧ (afterCommand (.tryWord idx) s).BS = s.BS ∧
      (afterCommand (.tryWord idx) s).COUNT = s.COUNT := by
  rw [afterCommand, engineTurn, engineTurnWith_tryWord hashWrap hL]
  exact ⟨rfl, rfl, rfl⟩

/-- TRYW leaves BS, and the STATUS value it reads shows the verdict in bit 2 (R37, R89, R132). -/
theorem runEvents_trywEvents {s : State} (hb : s.BUSY = false)
    (hL : s.COUNT.toNat + 1 ∈ [12, 15, 18, 21, 24]) (polls : Nat) (idx : Index) :
    ∃ t, runEvents (trywEvents polls idx) s = .next t ∧ t.BUSY = false ∧ t.BS = s.BS ∧
      t.COUNT = s.COUNT ∧ t.bus.rdata.getLsbD 2 = tryVerdict hashWrap s idx := by
  obtain ⟨hbusy, hBS, hCOUNT⟩ := afterCommand_tryWord_frame (s := ackWrite s) hL idx
  refine ⟨_, runEvents_command_wait_read hb (.tryWord idx) polls, hbusy, hBS, hCOUNT, ?_⟩
  obtain ⟨-, -, hvalid, -⟩ := statusWord_flags (afterCommand (.tryWord idx) (ackWrite s))
  rw [← tryVerdict_congr hashWrap (t := ackWrite s) hb hb hL rfl rfl,
    tryVerdict_of_idle (s := ackWrite s) hashWrap hb]
  exact hvalid

theorem scanFrom_eq {s : State} (hb : s.BUSY = false)
    (hL : s.COUNT.toNat + 1 ∈ [12, 15, 18, 21, 24]) (polls : Nat) (ws : List Index) :
    (scanFrom polls ws s).1 = ws.filter (tryVerdict hashWrap s) ∧
      (scanFrom polls ws s).2.BS = s.BS ∧ (scanFrom polls ws s).2.COUNT = s.COUNT := by
  induction ws generalizing s with
  | nil => exact ⟨rfl, rfl, rfl⟩
  | cons w ws ih =>
    obtain ⟨t, hrun, htb, hBS, hCOUNT, hbit⟩ := runEvents_trywEvents hb hL polls w
    obtain ⟨hwords, hBS', hCOUNT'⟩ := ih htb (by rwa [hCOUNT])
    rw [tryVerdict_congr hashWrap hb htb hL hBS hCOUNT] at hwords
    simp only [scanFrom, hrun, hbit, hwords, List.filter_cons]
    exact ⟨trivial, hBS'.trans hBS, hCOUNT'.trans hCOUNT⟩

/-- Settles O50: each TRYW of the loop leaves BS and reads its verdict, which is 1 for 2^(11−CS) candidates. -/
theorem scanRecordsExactlyTheCompletions : Obligations.ScanRecordsExactlyTheCompletions := by
  unfold Obligations.ScanRecordsExactlyTheCompletions scan
  intro s polls hb hL
  have hcount := (length_filter_allIndices (tryVerdict hashWrap s)).trans
    (ncard_tryVerdict hashWrap hb hL)
  obtain ⟨hwords, hkept⟩ := scanFrom_eq hb hL polls allIndices
  exact ⟨hwords, (congrArg List.length hwords).trans hcount, hkept⟩

end Sys2Proof.Machine
end

section
/-! The assembler on a command with one operand: the two tokens of the line, and the value of the operand's digits (R87). -/

namespace Sys2Proof.Machine

/-! ### The tokens of a line -/

/-- A character that ends no token and begins no comment. -/
def isPlain (c : Char) : Bool := !isSeparator c && c != ';'

/-- The tokens so far, with the one that is being read put before them. -/
def flushToken (p : List Char × List (List Char)) : List (List Char) :=
  if p.1.isEmpty then p.2 else p.1 :: p.2

/-- A character read from the right: it ends a token or extends the one that is being read. -/
def readChar (c : Char) (p : List Char × List (List Char)) : List Char × List (List Char) :=
  if isSeparator c then ([], flushToken p) else (c :: p.1, p.2)

theorem tokens_eq_foldr (cs : List Char) : tokens cs = flushToken (cs.foldr readChar ([], [])) :=
  rfl

theorem foldr_readChar_of_plain {w : List Char} (hw : w.all isPlain = true)
    (p : List Char × List (List Char)) : w.foldr readChar p = (w ++ p.1, p.2) := by
  induction w with
  | nil => rfl
  | cons c w ih =>
    obtain ⟨hc, hw⟩ := Bool.and_eq_true_iff.mp hw
    obtain ⟨hsep, -⟩ : isSeparator c = false ∧ c ≠ ';' := by simpa [isPlain] using hc
    rw [List.foldr_cons, ih hw, readChar, hsep]
    rfl

/-- A mnemonic and one operand are two tokens. -/
theorem tokens_pair {m w : List Char} (hm : m.all isPlain = true) (hw : w.all isPlain = true)
    (hm0 : m ≠ []) (hw0 : w ≠ []) : tokens (m ++ ' ' :: w) = [m, w] := by
  rw [tokens_eq_foldr, List.foldr_append, List.foldr_cons, foldr_readChar_of_plain hw,
    foldr_readChar_of_plain hm]
  simp [readChar, flushToken, isSeparator, hm0, hw0]

/-- A line of plain characters and spaces has no comment. -/
theorem stripComment_pair {m w : List Char} (hm : m.all isPlain = true)
    (hw : w.all isPlain = true) : stripComment (m ++ ' ' :: w) = m ++ ' ' :: w := by
  rw [stripComment, List.takeWhile_eq_self_iff]
  simp only [List.all_eq_true, isPlain, Bool.and_eq_true] at hm hw
  simp only [List.mem_append, List.mem_cons]
  rintro c (hc | rfl | hc)
  · exact (hm c hc).2
  · decide
  · exact (hw c hc).2

theorem assembleLine_pair {m w : List Char} (hm : m.all isPlain = true) (hw : w.all isPlain = true)
    (hm0 : m ≠ []) (hw0 : w ≠ []) :
    assembleLine (m ++ ' ' :: w) = lineOf (m.map Char.toUpper) [w] := by
  rw [assembleLine, stripComment_pair hm hw, tokens_pair hm hw hm0 hw0]

/-! ### The digits of a number -/

theorem digitValue_digitChar : ∀ base ≤ 16, ∀ d < base, digitValue base d.digitChar = some d := by
  decide

theorem isPlain_digitChar : ∀ d < 16, isPlain d.digitChar = true := by
  decide

theorem exists_digit_of_mem_toDigits {base n : Nat} (hbase : 1 < base) {c : Char}
    (hc : c ∈ Nat.toDigits base n) : ∃ d < base, c = d.digitChar := by
  induction n using Nat.strong_induction_on with
  | h n ih =>
    by_cases hn : n < base
    · rw [Nat.toDigits_of_lt_base hn, List.mem_singleton] at hc
      exact ⟨n, hn, hc⟩
    · rw [Nat.toDigits_of_base_le hbase (by omega), List.mem_append, List.mem_singleton] at hc
      rcases hc with hc | hc
      · exact ih (n / base) (Nat.div_lt_self (by omega) hbase) hc
      · exact ⟨n % base, Nat.mod_lt _ (by omega), hc⟩

theorem all_isPlain_toDigits {base : Nat} (hbase : 1 < base) (hle : base ≤ 16) (n : Nat) :
    (Nat.toDigits base n).all isPlain = true := by
  refine List.all_eq_true.mpr fun c hc => ?_
  obtain ⟨d, hd, rfl⟩ := exists_digit_of_mem_toDigits hbase hc
  exact isPlain_digitChar d (by omega)

theorem digits_singleton (base : Nat) (c : Char) : digits base [c] = digitValue base c := by
  simp [digits]

theorem digits_append_singleton (base : Nat) {cs : List Char} (hcs : cs ≠ []) (c : Char) :
    digits base (cs ++ [c]) =
      (digits base cs).bind fun n => (digitValue base c).map (n * base + ·) := by
  simp [digits, hcs]

/-- The digits of a number in a base have its value in that base. -/
theorem digits_toDigits {base : Nat} (hbase : 1 < base) (hle : base ≤ 16) (n : Nat) :
    digits base (Nat.toDigits base n) = some n := by
  induction n using Nat.strong_induction_on with
  | h n ih =>
    by_cases hn : n < base
    · rw [Nat.toDigits_of_lt_base hn, digits_singleton, digitValue_digitChar base hle n hn]
    · rw [Nat.toDigits_of_base_le hbase (by omega), digits_append_singleton _ Nat.toDigits_ne_nil,
        ih (n / base) (Nat.div_lt_self (by omega) hbase),
        digitValue_digitChar base hle _ (Nat.mod_lt _ (by omega))]
      simp [Nat.div_add_mod']

/-! ### Operands (R87) -/

theorem number_of_decimal {cs : List Char} (h : 'x' ∉ cs) : number cs = digits 10 cs := by
  unfold number
  split
  · simp at h
  · rfl

theorem number_toDigits_ten (n : Nat) : number (Nat.toDigits 10 n) = some n := by
  rw [number_of_decimal, digits_toDigits (by decide) (by decide)]
  intro hx
  exact absurd (Nat.isDigit_of_mem_toDigits (by decide) (by decide) hx) (by decide)

theorem number_toDigits_sixteen (n : Nat) : number ('0' :: 'x' :: Nat.toDigits 16 n) = some n :=
  digits_toDigits (by decide) (by decide) n

/-- A number within the width is that operand. -/
theorem operand_of_number {w : Nat} {cs : List Char} {b : BitVec w} (h : number cs = some b.toNat) :
    operand w cs = some b := by
  simp [operand, h, b.isLt]

/-- Settles O7: the line is a mnemonic and an operand, whose digits have the value of the index. -/
theorem assembledOperands : Obligations.AssembledOperands := by
  unfold Obligations.AssembledOperands
  intro idx
  have hdecimal := all_isPlain_toDigits (base := 10) (by decide) (by decide) idx.toNat
  have hhex : ('0' :: 'x' :: Nat.toDigits 16 idx.toNat).all isPlain = true :=
    all_isPlain_toDigits (by decide) (by decide) idx.toNat
  constructor
  · refine (assembleLine_pair (m := ['A', 'P', 'P', 'E', 'N', 'D']) (by decide) hdecimal (by decide)
      Nat.toDigits_ne_nil).trans ?_
    exact congrArg (Option.map fun i => Line.command (.append i))
      (operand_of_number (number_toDigits_ten idx.toNat))
  · refine (assembleLine_pair (m := ['t', 'r', 'y']) (by decide) hhex (by decide)
      (List.cons_ne_nil _ _)).trans ?_
    exact congrArg (Option.map fun i => Line.command (.tryWord i))
      (operand_of_number (number_toDigits_sixteen idx.toNat))

end Sys2Proof.Machine
end

section
/-! What each builder command does, in full: NOP, CLEAR and APPEND as words and as next states (R101 to R103). -/

namespace Sys2Proof.Machine

/-! ### Dropped and accepted (R100) -/

theorem exec_of_busy {s : State} (hb : s.BUSY = true) (i : Instr) : exec i s = .next (overrun s) := by
  rw [exec_eq_command, command_of_busy hb]

theorem exec_of_idle {s : State} (hb : s.BUSY = false) (i : Instr) :
    exec i s = .next (acceptedEffect i (accept s)) := by
  rw [exec_eq_command, command_of_idle hb]

/-! ### NOP (R101) -/

theorem opField_encode_eq_zero_iff {i : Instr} : opField (encode i) = 0 ↔ i = .nop := by
  cases i <;> simp [encode]

/-- OP 0 has one legal word (R83, R85). -/
theorem exists_decode_eq_illegal_of_opField_zero {v : Word} (hop : opField v = 0) (hv : v ≠ 0) :
    ∃ why, decode v = .illegal why := by
  rw [exists_decode_eq_illegal_iff, ← Bool.not_eq_true, legalWord_iff]
  rintro ⟨i, rfl⟩
  obtain rfl := opField_encode_eq_zero_iff.mp hop
  exact hv rfl

/-- Settles O11: NOP's effect beyond acceptance is `finish`, and OP 0 of a legal word is NOP's. -/
theorem nopMeaning : Obligations.NopMeaning := by
  unfold Obligations.NopMeaning
  exact ⟨fun _ => decode_eq_instr_iff, fun _ => exists_decode_eq_illegal_of_opField_zero,
    fun _ => ⟨fun hb => exec_of_idle hb .nop, fun hb => exec_of_busy hb .nop⟩⟩

/-! ### CLEAR (R102) -/

/-- A command that clears OVR is CLEAR: a dropped command sets it, and no other accepted one writes it (R26, R102). -/
theorem eq_clear_of_exec_OVR {i : Instr} {s t : State} (h : exec i s = .next t) (hs : s.OVR = true)
    (ht : t.OVR = false) : i = .clear := by
  by_contra hi
  rw [exec_eq_command] at h
  obtain rfl := Host.Outcome.next.inj h
  rcases command_cases (acceptedEffect i) s with ⟨-, he⟩ | ⟨-, he⟩
  · rw [he, overrun_OVR] at ht
    cases ht
  · rw [he, acceptedEffect_OVR hi, accept_OVR, hs] at ht
    cases ht

/-- An accepted CLEAR with no hash pending leaves the reset state with DONE = 1, but for the model's own fields (R42, R102). -/
theorem acceptedEffect_clear_eq_reset {s : State} (hb : s.BUSY = false) (hp : s.PEND = none) :
    acceptedEffect .clear (accept s) = { State.reset with
      DONE := true, inputs := s.inputs, bus := s.bus, freeIndex := s.freeIndex } := by
  simp [acceptedEffect, finish, clearAll, accept, State.reset, hb, hp]

/-- Settles O12: CLEAR's effect beyond acceptance is `clearAll` and `finish`; BUSY = 0 leaves no pending hash. -/
theorem clearMeaning : Obligations.ClearMeaning := by
  unfold Obligations.ClearMeaning
  refine ⟨fun _ => decode_eq_instr_iff, fun _ _ _ => eq_clear_of_exec_OVR,
    fun s => ⟨fun hb => exec_of_idle hb .clear, fun hb hinv => ?_, fun hb => exec_of_busy hb .clear⟩⟩
  have hp : s.PEND = none := by
    by_contra hp
    exact absurd (hinv.busy_iff_pend.mpr hp) (by simp [hb])
  rw [exec_of_idle hb, acceptedEffect_clear_eq_reset hb hp]

/-! ### APPEND (R103) -/

theorem acceptedEffect_append_of_full {s : State} (h : s.COUNT = 24) (idx : Index) :
    acceptedEffect (.append idx) s = raiseCmdError .full s := if_pos h

theorem acceptedEffect_append_of_room {s : State} (h : s.COUNT ≠ 24) (idx : Index) :
    acceptedEffect (.append idx) s = finish (appendWord idx s) := if_neg h

/-- Settles O13: below 24 words the slot of COUNT is written, and `slotWrite` is known bit for bit. -/
theorem appendMeaning : Obligations.AppendMeaning := by
  unfold Obligations.AppendMeaning
  refine ⟨fun _ _ => decode_eq_instr_iff.trans eq_enc_iff_row,
    fun s idx => ⟨fun hb hc => ?room, fun hb hc => ?full, fun hb => exec_of_busy hb _⟩⟩
  case room =>
    have hne : (accept s).COUNT ≠ 24 := fun h => absurd hc (by simp [show s.COUNT = 24 from h])
    refine ⟨slotWrite s.BS s.COUNT.toNat idx, ?_, fun n hn => ?_, fun n hn => ?_⟩
    · rw [exec_of_idle hb, acceptedEffect_append_of_room hne]
      rfl
    · rw [getLsbD_slotWrite, slotLow, if_pos (by omega), Nat.add_sub_cancel_left]
    · rw [getLsbD_slotWrite, slotLow, if_neg (by omega)]
  case full =>
    rw [exec_of_idle hb, acceptedEffect_append_of_full (s := accept s) hc]
    rfl

end Sys2Proof.Machine
end

section
/-! The bit string over a step: what leaves the words as they are, which steps write them, and that BS and COUNT go with the
source's word list (R45, R104, R106). -/

namespace Sys2Proof.Machine

/-- The words in BS and their number are the same in both states. -/
def SameWords (s t : State) : Prop := t.BS = s.BS ∧ t.COUNT = s.COUNT

theorem hashOrWordCount_sameWords (L : Nat) (M : BitString) (s : State) :
    SameWords s (hashOrWordCount L M s) := by
  rcases hashOrWordCount_cases L M s with ⟨-, h⟩ | ⟨-, h⟩
  · rw [h]
    exact ⟨rfl, rfl⟩
  · rw [h]
    exact ⟨rfl, rfl⟩

theorem engineTurn_sameWords (s : State) : SameWords s (engineTurn s) := by
  rcases engineTurnWith_cases hashWrap s with ⟨p, -, -, h⟩ | ⟨-, h⟩
  · rw [engineTurn, h]
    exact ⟨rfl, rfl⟩
  · rw [engineTurn, h]
    exact ⟨rfl, rfl⟩

theorem unscheduled_sameWords (s : State) : SameWords s (unscheduled s) := by
  unfold unscheduled
  split
  · exact engineTurn_sameWords s
  · exact ⟨rfl, rfl⟩

/-! ### Append only (R106) -/

/-- Of the accepted commands only CLEAR, and APPEND with room for a word, write BS or COUNT (R106). -/
theorem acceptedEffect_words_cases (i : Instr) (s : State) :
    SameWords s (acceptedEffect i s) ∨ i = .clear ∨
    ∃ idx, i = .append idx ∧ s.COUNT ≠ 24 ∧ acceptedEffect i s = finish (appendWord idx s) := by
  cases i with
  | nop => exact .inl ⟨rfl, rfl⟩
  | clear => exact .inr (.inl rfl)
  | append idx =>
    by_cases hc : s.COUNT = 24
    · rw [acceptedEffect_append_of_full hc]
      exact .inl ⟨rfl, rfl⟩
    · exact .inr (.inr ⟨idx, rfl, hc, acceptedEffect_append_of_room hc idx⟩)
  | validate => exact .inl (hashOrWordCount_sameWords _ _ s)
  | tryWord idx => exact .inl (hashOrWordCount_sameWords _ _ s)

/-- Everything a step can do to the words: nothing, what a reset or an accepted CLEAR does, or one more word from an accepted
APPEND (R45, R106). -/
theorem step_words_cases {s t : State} (h : step s = .next t) :
    SameWords s t ∨ takesReset s ∨ acceptsWord 0x00000001 s ∨
    ∃ idx, acceptsWord (encode (.append idx)) s ∧ s.COUNT ≠ 24 ∧
      t.BS = slotWrite s.BS s.COUNT.toNat idx ∧ t.COUNT = s.COUNT + 1 := by
  obtain ⟨u, ⟨rest, rfl⟩, hcase⟩ := step_cases h
  rcases hcase with ⟨out, rfl⟩ | ⟨v, hi, hv⟩ | ⟨-, rfl⟩ | ⟨presented, hi, -⟩
  · exact .inl ⟨rfl, rfl⟩
  · rcases commandWord_next_cases hv with ⟨-, rfl⟩ | ⟨i, hd, hb, rfl⟩ | ⟨-, rfl⟩
    · exact .inl ⟨rfl, rfl⟩
    · obtain rfl := decode_eq_instr_iff.mp hd
      rcases acceptedEffect_words_cases i (accept (ackWrite { s with inputs := rest }))
        with hsame | rfl | ⟨idx, rfl, hc, he⟩
      · exact .inl hsame
      · exact .inr (.inr (.inl ⟨hb, rest, hi⟩))
      · rw [he]
        exact .inr (.inr (.inr ⟨idx, ⟨hb, rest, hi⟩, hc, rfl, rfl⟩))
    · exact .inl ⟨rfl, rfl⟩
  · exact .inl (engineTurn_sameWords { s with inputs := rest })
  · exact .inr (.inl ⟨presented, rest, hi⟩)

/-- An accepted CLEAR empties the bit string (R102). -/
theorem step_words_of_clear {s t : State} (hstep : step s = .next t)
    (h : acceptsWord 0x00000001 s) : t.BS = 0 ∧ t.COUNT = 0 := by
  obtain ⟨hb, rest, hi⟩ := h
  rw [step_of_cmdWrite hi, commandWord_clear (s := ackWrite { s with inputs := rest }) hb] at hstep
  obtain rfl := Host.Outcome.next.inj hstep
  exact ⟨rfl, rfl⟩

/-- Settles O32: but for a reset and CLEAR, a step writes the slot after the last word or no slot at all. -/
theorem wordsAreAppendOnly : Obligations.WordsAreAppendOnly := by
  unfold Obligations.WordsAreAppendOnly
  intro s t hinv hstep
  refine ⟨step_words_of_clear hstep, fun hreset hclear => ?_⟩
  rcases step_words_cases hstep with ⟨hBS, hCOUNT⟩ | hr | hc | ⟨idx, hacc, hne, hBS, hCOUNT⟩
  · rw [hBS, hCOUNT]
    exact ⟨le_rfl, fun _ _ => rfl, fun _ => ⟨rfl, rfl⟩⟩
  · exact absurd hr hreset
  · exact absurd hc hclear
  · obtain ⟨hlt, hsucc⟩ := toNat_count_succ hinv.count_le hne
    rw [hBS, hCOUNT, hsucc]
    exact ⟨Nat.le_succ _, fun k hk => slotRead_slotWrite_of_lt _ idx hlt hk,
      fun hno => absurd hacc (hno idx)⟩

/-! ### The word list (R104) -/

/-- The bit string of a state is the packed list `is`, which fits the 24 slots (R104). -/
structure Packed (is : List Index) (s : State) : Prop where
  length_le : is.length ≤ 24
  represents : Represents is s

theorem Packed.of_sameWords {is : List Index} {s t : State} (h : Packed is s) (hst : SameWords s t) :
    Packed is t :=
  ⟨h.length_le, hst.2 ▸ h.represents.count, hst.1 ▸ h.represents.bits⟩

theorem packed_nil {s : State} (hBS : s.BS = 0) (hCOUNT : s.COUNT = 0) : Packed [] s :=
  ⟨Nat.zero_le _, by rw [hCOUNT]; rfl, by rw [hBS]; exact (BitVec.zero_shiftLeft _).symm⟩

theorem Packed.count_eq_iff {is : List Index} {s : State} (h : Packed is s) :
    s.COUNT = 24 ↔ is.length = maxWords := by
  rw [← h.represents.count, ← BitVec.toNat_inj]
  rfl

/-- The slot after the last word is where the list grows (R103, R104). -/
theorem Packed.appendWord {is : List Index} {s : State} (h : Packed is s) (hc : s.COUNT ≠ 24)
    (idx : Index) : Packed (is ++ [idx]) (appendWord idx s) := by
  obtain ⟨hle, hcount, hbits⟩ := h
  obtain ⟨hlt, hsucc⟩ := toNat_count_succ (hcount ▸ hle) hc
  rw [hcount] at hlt hsucc
  refine ⟨?_, ?_, ?_⟩
  · rw [List.length_append]
    exact hlt
  · rw [appendWord_COUNT, List.length_append]
    exact hsucc
  · rw [appendWord_BS, hbits, hcount, List.length_append]
    exact (pack_append_shiftLeft is idx hlt).symm

/-- An accepted command acts on the bit string as on the word list (R104, R106). -/
theorem Packed.acceptedEffect {is : List Index} {s : State} (h : Packed is s) (i : Instr) :
    Packed (wordsAfterCommand false i is) (acceptedEffect i s) := by
  cases i with
  | nop => exact h.of_sameWords ⟨rfl, rfl⟩
  | clear => exact packed_nil rfl rfl
  | append idx =>
    simp only [wordsAfterCommand, Bool.false_eq_true, if_false, ← h.count_eq_iff]
    by_cases hc : s.COUNT = 24
    · rw [if_pos hc, acceptedEffect_append_of_full hc]
      exact h.of_sameWords ⟨rfl, rfl⟩
    · rw [if_neg hc, acceptedEffect_append_of_room hc]
      exact (h.appendWord hc idx).of_sameWords ⟨rfl, rfl⟩
  | validate => exact h.of_sameWords (hashOrWordCount_sameWords _ _ s)
  | tryWord idx => exact h.of_sameWords (hashOrWordCount_sameWords _ _ s)

theorem wordsAfterEvent_of_instr {v : Word} {i : Instr} (h : decode v = .instr i) (busy : Bool)
    (is : List Index) :
    wordsAfterEvent busy (.host (.write 0x00 4 v)) is = wordsAfterCommand busy i is := by
  simp [wordsAfterEvent, h]

theorem wordsAfterEvent_of_illegal {v : Word} {why : Illegal} (h : decode v = .illegal why)
    (busy : Bool) (is : List Index) : wordsAfterEvent busy (.host (.write 0x00 4 v)) is = is := by
  simp [wordsAfterEvent, h]

/-- A dropped word leaves the word list (R100). -/
theorem wordsAfterEvent_of_busy (v : Word) (is : List Index) :
    wordsAfterEvent true (.host (.write 0x00 4 v)) is = is := by
  cases h : decode v with
  | instr i =>
    rw [wordsAfterEvent_of_instr h]
    rfl
  | illegal why => exact wordsAfterEvent_of_illegal h true is

/-- A CMD write of any word acts on the bit string as on the word list (R100, R104). -/
theorem Packed.commandWord {is : List Index} {s t : State} (h : Packed is s) {v : Word}
    (ht : commandWord v s = .next t) :
    Packed (wordsAfterEvent s.BUSY (.host (.write 0x00 4 v)) is) t := by
  rcases commandWord_cases v s with ⟨hb, he⟩ | ⟨i, hd, hb, he⟩ | ⟨why, hd, hb, he⟩
  all_goals obtain rfl := Host.Outcome.next.inj (he.symm.trans ht)
  · rw [hb, wordsAfterEvent_of_busy]
    exact h.of_sameWords ⟨rfl, rfl⟩
  · rw [hb, wordsAfterEvent_of_instr hd]
    exact Packed.acceptedEffect (s := accept s) (h.of_sameWords ⟨rfl, rfl⟩) i
  · rw [wordsAfterEvent_of_illegal hd]
    exact h.of_sameWords ⟨rfl, rfl⟩

section

variable {e : Event} (hcmd : ∀ v, e ≠ .host (.write 0x00 4 v)) (hreset : ∀ x, e ≠ .reset x)

include hcmd hreset

/-- Only a CMD write and a reset change the word list (R45). -/
theorem wordsAfterEvent_of_other (busy : Bool) (is : List Index) :
    wordsAfterEvent busy e is = is := by
  cases e with
  | host x =>
    cases x with
    | read off bytes => rfl
    | write off bytes v =>
      refine if_neg ?_
      rintro ⟨rfl, rfl⟩
      exact hcmd v rfl
  | engine => rfl
  | reset x => exact absurd rfl (hreset x)
  | idle => rfl
  | otherMaster x => rfl
  | powerLoss => rfl

/-- Only a CMD write and a reset change the bit string (R45). -/
theorem takeEvent_sameWords {s t : State} (ht : takeEvent e s = .next t) : SameWords s t := by
  rcases takeEvent_cases ht with ⟨out, rfl⟩ | ⟨v, he, -⟩ | ⟨-, rfl⟩ | ⟨x, he, -⟩
  · exact ⟨rfl, rfl⟩
  · exact absurd he (hcmd v)
  · exact engineTurn_sameWords s
  · exact absurd he (hreset x)

end

/-- Every event acts on the bit string as on the word list (R45, R104). -/
theorem Packed.takeEvent {is : List Index} {s t : State} (h : Packed is s) {e : Event}
    (ht : takeEvent e s = .next t) : Packed (wordsAfterEvent s.BUSY e is) t := by
  by_cases hcmd : ∃ v, e = .host (.write 0x00 4 v)
  · obtain ⟨v, rfl⟩ := hcmd
    have hv : Machine.commandWord v (ackWrite s) = .next t := (memWrite_cmd v s).symm.trans ht
    exact Packed.commandWord (s := ackWrite s) (h.of_sameWords ⟨rfl, rfl⟩) hv
  by_cases hreset : ∃ x, e = .reset x
  · obtain ⟨x, rfl⟩ := hreset
    obtain rfl := Host.Outcome.next.inj ht
    exact packed_nil rfl rfl
  · rw [not_exists] at hcmd hreset
    rw [wordsAfterEvent_of_other hcmd hreset]
    exact h.of_sameWords (takeEvent_sameWords hcmd hreset ht)

/-- Settles O30: the step is the next event, or with nothing scheduled one that leaves the words. -/
theorem builderRefinesWordList : Obligations.BuilderRefinesWordList := by
  unfold Obligations.BuilderRefinesWordList
  intro s t is hlen hrep hstep
  have h : Packed is s := ⟨hlen, hrep⟩
  suffices ht : Packed (wordsAfterStep s is) t from ⟨ht.length_le, ht.represents⟩
  unfold wordsAfterStep
  cases hi : s.inputs with
  | nil =>
    rw [step_of_unscheduled hi] at hstep
    obtain rfl := Host.Outcome.next.inj hstep
    exact h.of_sameWords (unscheduled_sameWords s)
  | cons e rest =>
    rw [step_of_scheduled hi] at hstep
    exact Packed.takeEvent (s := { s with inputs := rest }) (h.of_sameWords ⟨rfl, rfl⟩) hstep

end Sys2Proof.Machine
end

section
/-! What VALIDATE and TRY do at acceptance, in full, and that TRY reaches what APPEND and VALIDATE reach (R131, R132, R139). -/

namespace Sys2Proof.Machine

/-! ### The word-count check (R130, R202) -/

theorem hashOrWordCount_of_mem {L : Nat} (h : L ∈ [12, 15, 18, 21, 24]) (M : BitString) (s : State) :
    hashOrWordCount L M s = startHash L M s := if_pos (lok_iff_mem.mpr h)

theorem hashOrWordCount_of_not_mem {L : Nat} (h : L ∉ [12, 15, 18, 21, 24]) (M : BitString)
    (s : State) : hashOrWordCount L M s = raiseCmdError .wordCount s :=
  if_neg fun hlok => h (lok_iff_mem.mp hlok)

/-! ### VALIDATE (R131) -/

theorem exec_validate_of_mem {s : State} (hb : s.BUSY = false)
    (hL : s.COUNT.toNat ∈ [12, 15, 18, 21, 24]) :
    exec .validate s =
      .next (startHash s.COUNT.toNat (firstWords s.BS s.COUNT.toNat) (accept s)) := by
  rw [exec_of_idle hb]
  exact congrArg _ (hashOrWordCount_of_mem hL _ (accept s))

theorem exec_validate_of_not_mem {s : State} (hb : s.BUSY = false)
    (hL : s.COUNT.toNat ∉ [12, 15, 18, 21, 24]) :
    exec .validate s = .next (raiseCmdError .wordCount (accept s)) := by
  rw [exec_of_idle hb]
  exact congrArg _ (hashOrWordCount_of_not_mem hL _ (accept s))

/-- Settles O14: acceptance is followed by the word-count check, and `firstWords` is a division. -/
theorem validateMeaning : Obligations.ValidateMeaning := by
  unfold Obligations.ValidateMeaning
  refine ⟨fun _ => decode_eq_instr_iff, fun s => ⟨fun hb hL => ⟨_, ?_, toNat_firstWords s.BS _⟩,
    fun hb hL => exec_validate_of_not_mem hb hL, fun hb => exec_of_busy hb _⟩⟩
  have hlen : BitVec.ofNat 5 s.COUNT.toNat = s.COUNT := BitVec.ofNat_toNat 5 s.COUNT
  rw [exec_validate_of_mem hb hL, startHash, hlen]
  rfl

/-! ### TRY (R132) -/

theorem exec_tryWord_of_mem {s : State} (hb : s.BUSY = false)
    (hL : s.COUNT.toNat + 1 ∈ [12, 15, 18, 21, 24]) (idx : Index) :
    exec (.tryWord idx) s =
      .next (startHash (s.COUNT.toNat + 1) (withCandidate s.BS s.COUNT.toNat idx) (accept s)) := by
  rw [exec_of_idle hb]
  exact congrArg _ (hashOrWordCount_of_mem hL _ (accept s))

theorem exec_tryWord_of_not_mem {s : State} (hb : s.BUSY = false)
    (hL : s.COUNT.toNat + 1 ∉ [12, 15, 18, 21, 24]) (idx : Index) :
    exec (.tryWord idx) s = .next (raiseCmdError .wordCount (accept s)) := by
  rw [exec_of_idle hb]
  exact congrArg _ (hashOrWordCount_of_not_mem hL _ (accept s))

/-- Settles O15: acceptance is followed by the word-count check, and `withCandidate` is a division and a sum. -/
theorem tryMeaning : Obligations.TryMeaning := by
  unfold Obligations.TryMeaning
  refine ⟨fun _ _ => decode_eq_instr_iff.trans eq_enc_iff_row, fun s idx =>
    ⟨fun hb hL => ⟨withCandidate s.BS s.COUNT.toNat idx, ?_, ?_⟩,
      fun hb hL => exec_tryWord_of_not_mem hb hL idx, fun hb => exec_of_busy hb _⟩⟩
  · have hlen : BitVec.ofNat 5 (s.COUNT.toNat + 1) = s.COUNT + 1 := by
      rw [BitVec.ofNat_add, BitVec.ofNat_toNat, BitVec.setWidth_eq]
      rfl
    rw [exec_tryWord_of_mem hb hL, startHash, hlen]
    rfl
  · obtain ⟨-, -, -, -, -, -, hmax⟩ := length_table hL
    exact toNat_withCandidate s.BS idx (by omega)

/-! ### TRY, and APPEND with VALIDATE (R139) -/

/-- The words of BS with one more word written after them are the words followed by a candidate (R103, R132). -/
theorem firstWords_slotWrite (bs : BitString) {k : Nat} (hk : k < 24) (idx : Index) :
    firstWords (slotWrite bs k idx) (k + 1) = withCandidate bs k idx := by
  have hlow : slotLow k = 264 - 11 * (k + 1) := by
    unfold slotLow
    omega
  apply BitVec.eq_of_getLsbD_eq
  intro n hn
  rw [firstWords, withCandidate, firstWords, BitVec.getLsbD_ushiftRight, getLsbD_slotWrite, hlow,
    BitVec.getLsbD_or, BitVec.getLsbD_shiftLeft, BitVec.getLsbD_ushiftRight, BitVec.getLsbD_setWidth]
  by_cases hword : n < 11
  · rw [if_pos (by omega), Nat.add_sub_cancel_left]
    simp [hn, hword]
  · have hbit : 264 - 11 * (k + 1) + n = 264 - 11 * k + (n - 11) := by omega
    rw [if_neg (by omega), hbit, BitVec.getLsbD_of_ge idx n (by omega)]
    simp [hn, hword]

/-- APPEND idx and then VALIDATE hash what TRY idx hashes (R131, R132, R139). -/
theorem exec_validate_after_append {s : State} (hb : s.BUSY = false)
    (hL : s.COUNT.toNat + 1 ∈ [12, 15, 18, 21, 24]) (idx : Index) :
    exec (.append idx) s = .next (finish (appendWord idx (accept s))) ∧
      exec .validate (finish (appendWord idx (accept s))) =
        .next (startHash (s.COUNT.toNat + 1) (withCandidate s.BS s.COUNT.toNat idx)
          (accept (appendWord idx (accept s)))) := by
  obtain ⟨-, -, -, -, -, -, hmax⟩ := length_table hL
  have hne : s.COUNT ≠ 24 := fun h => absurd hmax (by simp [h])
  obtain ⟨hlt, hsucc⟩ := toNat_count_succ (by omega) hne
  refine ⟨?_, ?_⟩
  · rw [exec_of_idle hb, acceptedEffect_append_of_room (s := accept s) hne]
  · have hcount : (finish (appendWord idx (accept s))).COUNT.toNat = s.COUNT.toNat + 1 := hsucc
    rw [exec_validate_of_mem (s := finish (appendWord idx (accept s))) hb (by rwa [hcount]), hcount,
      ← firstWords_slotWrite s.BS hlt idx]
    rfl

/-- Settles O23: both start the same hash, on states that differ in BS and COUNT only. -/
theorem tryEquivalence : Obligations.TryEquivalence := by
  unfold Obligations.TryEquivalence
  intro hash s idx hb hL
  obtain ⟨happend, hvalidate⟩ := exec_validate_after_append hb hL idx
  exact ⟨_, _, _, exec_tryWord_of_mem hb hL idx, happend, hvalidate, rfl, rfl,
    ⟨rfl, rfl, rfl, rfl, rfl⟩, rfl, rfl, slotRead_slotWrite s.BS s.COUNT.toNat idx, rfl⟩

end Sys2Proof.Machine
end

section
/-! The completion in numbers: what it writes, that the results depend on PEND only, and the comparator's verdict (R133 to R136,
R143). -/

namespace Sys2Proof.Machine

/-- A completion in the independent arithmetic of R133: the results are the split, the digest and the two checksums as numbers. -/
theorem completeWith_eq (hash : HashFn) (p : Pending) (s : State) :
    completeWith hash p s = { s with
      VALID := decide (expectedChecksum hash p.PL.toNat p.PM.toNat =
        p.PM.toNat % 2 ^ (p.PL.toNat / 3)),
      CSUM := BitVec.ofNat 8 (expectedChecksum hash p.PL.toNat p.PM.toNat),
      RCVD := BitVec.ofNat 8 (p.PM.toNat % 2 ^ (p.PL.toNat / 3)),
      CSLEN := BitVec.ofNat 4 (p.PL.toNat / 3),
      DIG := hash (32 * (p.PL.toNat / 3))
        (BitVec.ofNat (32 * (p.PL.toNat / 3)) (p.PM.toNat / 2 ^ (p.PL.toNat / 3))),
      BUSY := false, DONE := true, PEND := none } := by
  have hvalid : (completeWith hash p s).VALID =
      decide (expectedChecksum hash p.PL.toNat p.PM.toNat =
        p.PM.toNat % 2 ^ (p.PL.toNat / 3)) := by
    rw [Bool.eq_iff_iff, completeWith_VALID_iff, decide_eq_true_iff]
  have hcsum : (completeWith hash p s).CSUM =
      BitVec.ofNat 8 (expectedChecksum hash p.PL.toNat p.PM.toNat) := by
    have hcs : csOf p.PL.toNat ≤ 256 := by
      unfold csOf
      omega
    rw [completeWith_CSUM, ← BitVec.ofNat_toNat, toNat_checksum _ hcs, entropy_eq_ofNat]
    rfl
  have hrcvd : (completeWith hash p s).RCVD =
      BitVec.ofNat 8 (p.PM.toNat % 2 ^ (p.PL.toNat / 3)) := by
    rw [completeWith_RCVD, ← BitVec.ofNat_toNat, toNat_received]
    rfl
  have hdig : (completeWith hash p s).DIG = hash (32 * (p.PL.toNat / 3))
      (BitVec.ofNat (32 * (p.PL.toNat / 3)) (p.PM.toNat / 2 ^ (p.PL.toNat / 3))) :=
    congrArg (hash _) (entropy_eq_ofNat p.PL.toNat p.PM)
  rw [← hvalid, ← hcsum, ← hrcvd, ← hdig]
  rfl

theorem engineTurn_of_pend {s : State} {p : Pending} (hb : s.BUSY = true) (hp : s.PEND = some p) :
    engineTurn s = completeWith hashWrap p s := engineTurnWith_of_pend hashWrap hb hp

/-- Settles O17: an enabled turn is the completion in numbers, and a turn that is not enabled leaves the state. -/
theorem engineCompletes : Obligations.EngineCompletes := by
  unfold Obligations.EngineCompletes
  refine ⟨fun s hb => congrArg _ (engineTurnWith_of_idle hashWrap hb), ?_⟩
  rintro s p hb hp - - L M cs D rfl rfl rfl rfl
  exact congrArg _ ((engineTurn_of_pend hb hp).trans (completeWith_eq hashWrap p s))

/-- Settles O18: a completion leaves ERR, which is NONE while a hash runs, and VALID is the comparator's verdict. -/
theorem comparatorVerdict : Obligations.ComparatorVerdict := by
  unfold Obligations.ComparatorVerdict
  intro s p hinv hp
  have hb : s.BUSY = true := hinv.busy_iff_pend.mpr (by simp [hp])
  obtain ⟨-, -, herr⟩ := hinv.busy_flags hb
  rw [engineTurn_of_pend hb hp]
  exact ⟨herr, completeWith_VALID_iff hashWrap p s⟩

/-- Settles O21: both turns complete the same pending hash. -/
theorem resultsDependOnPendingOnly : Obligations.ResultsDependOnPendingOnly := by
  unfold Obligations.ResultsDependOnPendingOnly
  intro s s' hb hb' hne heq
  obtain ⟨p, hp⟩ := Option.ne_none_iff_exists'.mp hne
  rw [engineTurn_of_pend hb' (heq.symm.trans hp)]
  exact sameResults_engineTurn hb hp s'

end Sys2Proof.Machine
end

section
/-! Which steps write the result registers CSUM, RCVD, CSLEN and DIG, and what a completing step writes (R136). -/

namespace Sys2Proof.Machine

/-- The result registers (R28 to R31). -/
def results (s : State) : BitVec 8 × BitVec 8 × BitVec 4 × Digest :=
  (s.CSUM, s.RCVD, s.CSLEN, s.DIG)

theorem results_hashOrWordCount (L : Nat) (M : BitString) (s : State) :
    results (hashOrWordCount L M s) = results s := by
  rcases hashOrWordCount_cases L M s with ⟨-, h⟩ | ⟨-, h⟩
  · rw [h]
    rfl
  · rw [h]
    rfl

/-- CLEAR is the only command that writes the result registers at acceptance (R136, R137). -/
theorem results_acceptedEffect {i : Instr} (hi : i ≠ .clear) (s : State) :
    results (acceptedEffect i s) = results s := by
  cases i with
  | nop => rfl
  | clear => exact absurd rfl hi
  | append idx =>
    by_cases hc : s.COUNT = 24
    · rw [acceptedEffect_append_of_full hc]
      rfl
    · rw [acceptedEffect_append_of_room hc]
      rfl
  | validate => exact results_hashOrWordCount ..
  | tryWord idx => exact results_hashOrWordCount ..

/-- A command word that changes the result registers is an accepted CLEAR (R136). -/
theorem eq_clear_of_commandWord_results {v : Word} {s t : State} (h : commandWord v s = .next t)
    (hne : results t ≠ results s) : s.BUSY = false ∧ v = 0x00000001 := by
  rcases commandWord_next_cases h with ⟨-, rfl⟩ | ⟨i, hd, hb, rfl⟩ | ⟨-, rfl⟩
  · exact absurd rfl hne
  · refine ⟨hb, eq_of_decode_clear (hd.trans (congrArg _ ?_))⟩
    by_contra hi
    exact hne (results_acceptedEffect hi (accept s))
  · exact absurd rfl hne

/-- A step that changes the result registers is a completion, a reset or an accepted CLEAR (R136). -/
theorem step_results_changed {s t : State} (hstep : step s = .next t)
    (hne : results t ≠ results s) :
    takesCompletion s ∨ takesReset s ∨ acceptsWord 0x00000001 s := by
  obtain ⟨u, ⟨rest, rfl⟩, hcase⟩ := step_cases hstep
  rcases hcase with ⟨out, rfl⟩ | ⟨v, hi, hv⟩ | ⟨hi, rfl⟩ | ⟨presented, hi, -⟩
  · exact absurd rfl hne
  · obtain ⟨hb, rfl⟩ := eq_clear_of_commandWord_results hv hne
    exact .inr (.inr ⟨hb, rest, hi⟩)
  · rcases engineTurnWith_cases hashWrap { s with inputs := rest } with ⟨p, hb, -, -⟩ | ⟨-, he⟩
    · exact .inl ⟨hb, hi.symm.imp And.left fun h => ⟨rest, h⟩⟩
    · exact absurd (congrArg results he) hne
  · exact .inr (.inl ⟨presented, rest, hi⟩)

/-- A scheduled completion is taken off the schedule, an owed one finds the schedule empty and leaves it so (R133, R241). -/
theorem step_of_completion {s : State} {p : Pending} (h : takesCompletion s)
    (hp : s.PEND = some p) :
    step s = .next { completeWith hashWrap p s with inputs := s.inputs.tail } := by
  obtain ⟨hb, hi | ⟨rest, hi⟩⟩ := h
  · rw [step_of_unscheduled hi, unscheduled, if_pos hb, engineTurn_of_pend hb hp, hi, List.tail_nil,
      ← hi]
    rfl
  · rw [step_of_scheduled hi, hi]
    exact congrArg _ (engineTurn_of_pend (s := { s with inputs := rest }) hb hp)

/-- Settles O19: the inversion of the step leaves three writers, and a completion writes numbers that fit their registers. -/
theorem resultWriters : Obligations.ResultWriters := by
  unfold Obligations.ResultWriters
  refine ⟨fun s t => step_results_changed, fun s t p hinv hcomp hp hstep => ?_⟩
  obtain ⟨hlok, -⟩ := hinv.pend_fits p hp
  obtain ⟨-, -, hcs8, -, hcs, -, -⟩ := length_table (lok_iff_mem.mp hlok)
  rw [hcs] at hcs8
  have hfit {x : Nat} (hx : x < 2 ^ (p.PL.toNat / 3)) : (BitVec.ofNat 8 x).toNat = x :=
    Nat.mod_eq_of_lt (hx.trans_le (Nat.pow_le_pow_right (by omega) hcs8))
  rw [step_of_completion hcomp hp, completeWith_eq] at hstep
  obtain rfl := Host.Outcome.next.inj hstep
  refine ⟨hfit (expectedChecksum_lt hashWrap _ (by omega)),
    hfit (Nat.mod_lt _ (Nat.two_pow_pos _)), Nat.mod_eq_of_lt (by omega), rfl, rfl, fun _ => rfl⟩

end Sys2Proof.Machine
end

section
/-! A running hash outlives whatever the host does, and completes with what was pending (R206, R241, R242). -/

namespace Sys2Proof.Machine

/-- The states are equal but for OVR and the model's own fields: what the host can change while a hash runs (R206, R236). -/
def SameButOverrun (s t : State) : Prop :=
  ∃ ovr inputs out n, t = { s with OVR := ovr, inputs := inputs, bus := out, freeIndex := n }

theorem SameButOverrun.trans {s t u : State} (hst : SameButOverrun s t) (htu : SameButOverrun t u) :
    SameButOverrun s u := by
  obtain ⟨_, _, _, _, rfl⟩ := hst
  obtain ⟨_, _, _, _, rfl⟩ := htu
  exact ⟨_, _, _, _, rfl⟩

theorem SameButOverrun.fields {s t : State} (h : SameButOverrun s t) :
    t.BUSY = s.BUSY ∧ t.PEND = s.PEND ∧ t.ERR = s.ERR ∧ t.BS = s.BS ∧ t.COUNT = s.COUNT := by
  obtain ⟨_, _, _, _, rfl⟩ := h
  exact ⟨rfl, rfl, rfl, rfl, rfl⟩

theorem wellFormed_of_hashOutlives {e : Event} (he : hashOutlives e = true) :
    e.wellFormed = true := by
  cases e with
  | host x => exact he
  | engine => cases he
  | reset x => cases he
  | idle => rfl
  | otherMaster x => cases he
  | powerLoss => cases he

/-- While a hash runs, a host access drives the ports or is a dropped CMD write, and an idle cycle drives the ports (R206, R236). -/
theorem takeEvent_of_hashOutlives {e : Event} (he : hashOutlives e = true) {s : State}
    (hb : s.BUSY = true) : ∃ t, takeEvent e s = .next t ∧ SameButOverrun s t := by
  obtain ⟨t, ht⟩ := exists_takeEvent_eq_next (wellFormed_of_hashOutlives he) s
  refine ⟨t, ht, ?_⟩
  rcases takeEvent_cases ht with ⟨out, rfl⟩ | ⟨v, -, hv⟩ | ⟨rfl, -⟩ | ⟨x, rfl, -⟩
  · exact ⟨_, _, _, _, rfl⟩
  · rw [commandWord_of_busy (s := ackWrite s) hb] at hv
    obtain rfl := Host.Outcome.next.inj hv
    exact ⟨_, _, _, _, rfl⟩
  · cases he
  · cases he

/-- Any number of such events leaves the running hash as it is. -/
theorem runEvents_of_hashOutlives {es : List Event} (hes : es.all hashOutlives = true) {s : State}
    (hb : s.BUSY = true) : ∃ t, runEvents es s = .next t ∧ SameButOverrun s t := by
  induction es generalizing s with
  | nil => exact ⟨s, rfl, _, _, _, _, rfl⟩
  | cons e es ih =>
    obtain ⟨he, hes⟩ := Bool.and_eq_true_iff.mp hes
    obtain ⟨u, hu, hsu⟩ := takeEvent_of_hashOutlives he hb
    obtain ⟨hbusy, -⟩ := hsu.fields
    obtain ⟨t, ht, hut⟩ := ih hes (hbusy.trans hb)
    exact ⟨t, (runEvents_cons_of_next hu es).trans ht, hsu.trans hut⟩

/-- One step more than a run is the step from where the run ended. -/
theorem runSteps_succ_last {n : Nat} {s t : State} (h : runSteps n s = .next t) :
    runSteps (n + 1) s = step t := by
  induction n generalizing s with
  | zero =>
    obtain rfl := Host.Outcome.next.inj h
    simp only [runSteps]
    cases step s <;> rfl
  | succ n ih =>
    cases hs : step s with
    | next u =>
      rw [runSteps_succ hs] at h ⊢
      exact ih h
    | fault r => simp [runSteps, hs] at h
    | refused r => simp [runSteps, hs] at h

/-- Settles O44: the host's events leave the running hash as it is, and the step after them is its completion. -/
theorem startedHashCompletes : Obligations.StartedHashCompletes := by
  unfold Obligations.StartedHashCompletes
  intro s es post hinv hb hes hs
  obtain ⟨p, hp⟩ := Option.ne_none_iff_exists'.mp (hinv.busy_iff_pend.mp hb)
  obtain ⟨-, -, herr⟩ := hinv.busy_flags hb
  obtain ⟨last, hin, hlast, htail⟩ : ∃ last, s.inputs = es ++ last ∧
      (last = [] ∨ ∃ rest, last = .engine :: rest) ∧ last.tail = post := by
    rcases hs with hs | ⟨hs, rfl⟩
    · exact ⟨_, hs, .inr ⟨post, rfl⟩, rfl⟩
    · exact ⟨[], by rw [hs, List.append_nil], .inl rfl, rfl⟩
  obtain ⟨u, hrun, hsame⟩ :=
    runEvents_of_hashOutlives hes (s := { s with inputs := last }) hb
  obtain ⟨hbusy, hpend, herr', hBS, hCOUNT⟩ := hsame.fields
  obtain rfl : u.inputs = last := runEvents_inputs hrun
  have hcomplete := step_of_completion ⟨hbusy.trans hb, hlast⟩ (hpend.trans hp)
  exact ⟨_, (runSteps_succ_last (runSteps_of_runEvents hin hrun)).trans hcomplete, htail, rfl, rfl,
    herr'.trans herr, rfl, sameResults_engineTurn hb hp u, hBS, hCOUNT⟩

end Sys2Proof.Machine
end

section
/-! Last words by their leading bits: at most one completion for each value, so exactly one, and what a change of checksum bits
does (R138, R140). -/

namespace Sys2Proof.Machine

/-- Indices with the same leading bits give the same entropy, so the same checksum (R134, R138). -/
theorem expectedChecksum_of_leading_bits (hash : HashFn) {L : Nat} (hL : L / 3 ≤ 11) (pre : Nat)
    {i j : Nat} (h : i / 2 ^ (L / 3) = j / 2 ^ (L / 3)) :
    expectedChecksum hash L (pre * 2 ^ 11 + i) = expectedChecksum hash L (pre * 2 ^ 11 + j) := by
  apply expectedChecksum_congr
  obtain ⟨k, hk⟩ : 2 ^ (L / 3) ∣ 2 ^ 11 := Nat.pow_dvd_pow 2 hL
  rw [hk, Nat.mul_left_comm, Nat.mul_add_div (Nat.two_pow_pos _),
    Nat.mul_add_div (Nat.two_pow_pos _), h]

section

variable (hash : HashFn) {s : State} (hb : s.BUSY = false)
  (hL : s.COUNT.toNat + 1 ∈ [12, 15, 18, 21, 24])

include hb hL

/-- Two completions with the same leading bits are one: their checksum bits are the same checksum (R138, R140). -/
theorem eq_of_tryVerdict {i j : Index} (hi : tryVerdict hash s i = true)
    (hj : tryVerdict hash s j = true)
    (hij : i.toNat / 2 ^ ((s.COUNT.toNat + 1) / 3) = j.toNat / 2 ^ ((s.COUNT.toNat + 1) / 3)) :
    i = j := by
  obtain ⟨-, -, hcs8, -, hcs, -, -⟩ := length_table hL
  rw [tryVerdict_iff hash hb hL] at hi hj
  have hlow : i.toNat % 2 ^ ((s.COUNT.toNat + 1) / 3) =
      j.toNat % 2 ^ ((s.COUNT.toNat + 1) / 3) := by
    rw [hi, hj]
    exact expectedChecksum_of_leading_bits hash (by omega) _ hij
  apply BitVec.eq_of_toNat_eq
  rw [← Nat.div_add_mod i.toNat (2 ^ ((s.COUNT.toNat + 1) / 3)), hij, hlow, Nat.div_add_mod]

/-- Each value of the leading bits has its completion: there are as many completions as values, at most one for each
(R138). -/
theorem exists_tryVerdict_of_leading_bits {x : Nat}
    (hx : x < 2 ^ (11 - (s.COUNT.toNat + 1) / 3)) :
    ∃ idx : Index, idx.toNat / 2 ^ ((s.COUNT.toNat + 1) / 3) = x ∧
      tryVerdict hash s idx = true := by
  obtain ⟨-, -, hcs8, -, hcs, -, -⟩ := length_table hL
  have hlead (idx : Index) :
      idx.toNat / 2 ^ ((s.COUNT.toNat + 1) / 3) ∈
        Set.Iio (2 ^ (11 - (s.COUNT.toNat + 1) / 3)) := by
    apply Nat.div_lt_of_lt_mul
    rw [← pow_add, Nat.add_sub_cancel' (by omega)]
    exact idx.isLt
  have hcount : (Set.Iio (2 ^ (11 - (s.COUNT.toNat + 1) / 3))).ncard ≤
      Set.ncard {idx : Index | tryVerdict hash s idx = true} := by
    rw [ncard_tryVerdict hash hb hL, Set.ncard_Iio_nat]
  obtain ⟨idx, hidx, hxidx⟩ := Set.surj_on_of_inj_on_of_ncard_le
    (fun idx _ => idx.toNat / 2 ^ ((s.COUNT.toNat + 1) / 3)) (fun idx _ => hlead idx)
    (fun _ _ hi hj => eq_of_tryVerdict hash hb hL hi hj) hcount (Set.finite_Iio _) x hx
  exact ⟨idx, hxidx.symm, hidx⟩

end

/-- Settles O22: each value of the leading bits has a completion, no two share one, and `ncard_tryVerdict` counts them. -/
theorem completionCount : Obligations.CompletionCount := by
  unfold Obligations.CompletionCount
  rintro hash s cs hb hL rfl
  refine ⟨fun x hx => ?_, ncard_tryVerdict hash hb hL⟩
  obtain ⟨idx, hlead, hidx⟩ := exists_tryVerdict_of_leading_bits hash hb hL hx
  exact ⟨idx, ⟨hlead, hidx⟩,
    fun j ⟨hjlead, hj⟩ => eq_of_tryVerdict hash hb hL hj hidx (hjlead.trans hlead.symm)⟩

/-- Settles O24: the completions with the leading bits of idx are idx alone, and the completions in all are counted. -/
theorem checksumSensitivity : Obligations.ChecksumSensitivity := by
  unfold Obligations.ChecksumSensitivity
  rintro hash s idx cs pre hb hL rfl rfl hidx
  refine ⟨fun j hlead hne => ?_, tryVerdict_iff hash hb hL, ?_⟩
  · exact Bool.eq_false_iff.mpr fun hj => hne (eq_of_tryVerdict hash hb hL hj hidx hlead)
  · have hset : {j : Index | j ≠ idx ∧ tryVerdict hash s j = true} =
        {j : Index | tryVerdict hash s j = true} \ {idx} := Set.ext fun j => and_comm
    have hmem : idx ∈ {j : Index | tryVerdict hash s j = true} := hidx
    rw [hset, Set.ncard_sdiff_singleton_of_mem hmem, ncard_tryVerdict hash hb hL]

end Sys2Proof.Machine
end

section
/-! The hash wrapper: the message bytes, the padded block, the message schedule and the checksum of the digest
(R161, R164, R168, R170, R174). -/

namespace Sys2Proof.Machine

/-! ### The message bytes (R161, R134) -/

/-- The first n bytes, read in base 256, are the entropy without the bits below them. -/
theorem foldl_take_entropyBytes {ent : Nat} (e : BitVec ent) (hent : 8 ∣ ent) {n : Nat}
    (hn : n ≤ ent / 8) :
    ((entropyBytes ent e).take n).foldl (fun acc b => acc * 256 + b.toNat) 0 =
      e.toNat / 2 ^ (ent - 8 * n) := by
  induction n with
  | zero => simpa using (Nat.div_eq_of_lt e.isLt).symm
  | succ n ih =>
    have hbyte : (entropyBytes ent e)[n]? = some (e.extractLsb' (ent - 8 - 8 * n) 8) := by
      simp [entropyBytes, show n < ent / 8 by omega]
    have hlow : ent - 8 * n = ent - 8 * (n + 1) + 8 := by omega
    rw [List.take_add_one, hbyte, List.foldl_append, ih (by omega), hlow, pow_add,
      ← Nat.div_div_eq_div_mul]
    simp only [Option.toList_some, List.foldl_cons, List.foldl_nil, BitVec.extractLsb'_toNat,
      Nat.shiftRight_eq_div_pow, show ent - 8 - 8 * n = ent - 8 * (n + 1) by omega]
    exact Nat.div_add_mod' _ 256

/-- Settles O25: with all ENT/8 bytes read, no bits remain below them. -/
theorem messageBytesAreEntropy : Obligations.MessageBytesAreEntropy := by
  unfold Obligations.MessageBytesAreEntropy
  intro ent e hent
  have hlen : (entropyBytes ent e).length = ent / 8 := by simp [entropyBytes]
  have hread := foldl_take_entropyBytes e hent le_rfl
  rw [List.take_of_length_le hlen.le, Nat.mul_div_cancel' hent] at hread
  exact ⟨hlen, by simpa using hread⟩

/-! ### The padded block (R162, R164) -/

theorem blockWord_or (P Q : BitVec 512) (t : Nat) :
    blockWord (P ||| Q) t = blockWord P t ||| blockWord Q t :=
  BitVec.extractLsb'_or

/-- The entropy part of the block: whole words from the top, and nothing after them. -/
theorem blockWord_message {k t : Nat} (hk : k ≤ 16) (ht : t < 16) (e : BitVec (32 * k)) :
    blockWord (e.setWidth 512 <<< (512 - 32 * k)) t =
      if t < k then e.extractLsb' (32 * k - 32 - 32 * t) 32 else 0 := by
  apply BitVec.eq_of_getLsbD_eq
  intro i hi
  rw [blockWord, BitVec.getLsbD_extractLsb', BitVec.getLsbD_shiftLeft, BitVec.getLsbD_setWidth]
  by_cases htk : t < k
  · rw [if_pos htk, BitVec.getLsbD_extractLsb',
      show 480 - 32 * t + i - (512 - 32 * k) = 32 * k - 32 - 32 * t + i by omega]
    have hhigh : ¬ 480 - 32 * t + i < 512 - 32 * k := by omega
    have hin : 480 - 32 * t + i < 512 := by omega
    have hin' : 32 * k - 32 - 32 * t + i < 512 := by omega
    simp [hi, hhigh, hin, hin']
  · have hlow : 480 - 32 * t + i < 512 - 32 * k := by omega
    simp [htk, hlow]

/-- The one bit after the entropy is the top bit of the word after it. -/
theorem blockWord_endBit {k t : Nat} (hk : k < 16) (ht : t < 16) :
    blockWord (1#512 <<< (511 - 32 * k)) t = if t = k then 0x80000000 else 0 := by
  apply BitVec.eq_of_getLsbD_eq
  intro i hi
  have htop : (0x80000000 : Word) = BitVec.twoPow 32 31 := rfl
  rw [blockWord, BitVec.getLsbD_extractLsb', BitVec.getLsbD_shiftLeft, BitVec.getLsbD_one,
    Bool.eq_iff_iff]
  by_cases htk : t = k
  · rw [if_pos htk, htk, htop, BitVec.getLsbD_twoPow]
    simp
    omega
  · rw [if_neg htk]
    simp
    omega

/-- The length is the last word of the block. -/
theorem blockWord_length {ent t : Nat} (hent : ent < 2 ^ 32) (ht : t < 16) :
    blockWord (BitVec.ofNat 512 ent) t = if t = 15 then BitVec.ofNat 32 ent else 0 := by
  apply BitVec.eq_of_getLsbD_eq
  intro i hi
  rw [blockWord, BitVec.getLsbD_extractLsb', BitVec.getLsbD_ofNat]
  by_cases ht15 : t = 15
  · rw [if_pos ht15, BitVec.getLsbD_ofNat, ht15]
    have hin : i < 512 := by omega
    simp [hi, hin]
  · have hzero : ent.testBit (480 - 32 * t + i) = false :=
      Nat.testBit_lt_two_pow (hent.trans_le (Nat.pow_le_pow_right (by decide) (by omega)))
    simp [ht15, hzero]

/-- The words of the padded block for an entropy of k words: the parts of the block meet in no word (R164). -/
theorem blockWord_padBlock {k t : Nat} (hk : k < 15) (ht : t < 16) (e : BitVec (32 * k)) :
    blockWord (padBlock (32 * k) e) t =
      if t < k then e.extractLsb' (32 * k - 32 - 32 * t) 32
      else if t = k then 0x80000000
      else if t = 15 then BitVec.ofNat 32 (32 * k)
      else 0 := by
  rw [padBlock, blockWord_or, blockWord_or, blockWord_message (by omega) ht,
    blockWord_endBit (by omega) ht, blockWord_length (by omega) ht]
  rcases lt_trichotomy t k with hlt | heq | hgt
  · simp [hlt, show t ≠ k by omega, show t ≠ 15 by omega]
  · simp [heq, show k ≠ 15 by omega]
  · simp [show ¬ t < k by omega, show t ≠ k by omega]

/-- A window of the entropy of the first L words is a window of the bit string (R39, R134). -/
theorem extractLsb'_entropy_firstWords (bs : BitString) {L low len : Nat}
    (hL : L ∈ [12, 15, 18, 21, 24]) (h : low + len ≤ entOf L) :
    (entropy L (firstWords bs L)).extractLsb' low len =
      bs.extractLsb' (264 - entOf L + low) len := by
  apply BitVec.eq_of_getLsbD_eq
  intro i hi
  rw [BitVec.getLsbD_extractLsb', BitVec.getLsbD_extractLsb',
    getLsbD_entropy_firstWords bs hL (by omega), Nat.add_assoc]

/-- Settles O26: the parts of the block word by word, and the words of the entropy as windows of BS. -/
theorem paddedBlockWords : Obligations.PaddedBlockWords := by
  unfold Obligations.PaddedBlockWords
  refine ⟨fun ent e hent t ht => ?_, fun bs L j hL hj => ?_⟩
  · obtain ⟨k, rfl, hk⟩ : ∃ k, ent = 32 * k ∧ k < 15 := by
      simp only [List.mem_cons, List.not_mem_nil, or_false] at hent
      exact ⟨ent / 32, by omega, by omega⟩
    rw [Nat.mul_div_cancel_left k (by decide)]
    exact blockWord_padBlock hk ht e
  · obtain ⟨hsum, -, hcs8, hent, -, -, -⟩ := length_table hL
    rw [extractLsb'_entropy_firstWords bs hL (by omega), bitsWord, if_pos (by omega),
      show 264 - entOf L + (entOf L - 32 - 32 * j.val) = 232 - 32 * j.val by omega]

/-! ### The message schedule (R168) -/

@[simp] theorem length_extendSchedule (n : Nat) (w : List Word) :
    (extendSchedule n w).length = w.length + n := by
  induction n generalizing w with
  | zero => rfl
  | succ n ih =>
    rw [extendSchedule, ih, List.length_append, List.length_singleton]
    omega

/-- Extending a schedule keeps the words it has. -/
theorem take_extendSchedule (n : Nat) (w : List Word) :
    (extendSchedule n w).take w.length = w := by
  induction n generalizing w with
  | zero => exact List.take_length
  | succ n ih =>
    have hlonger := congrArg (List.take w.length) (ih (w ++ [nextWord w]))
    rwa [List.take_take, List.take_left, List.length_append, Nat.min_eq_left (by simp)] at hlonger

theorem getElem?_extendSchedule_of_lt (n : Nat) {w : List Word} {t : Nat} (ht : t < w.length) :
    (extendSchedule n w)[t]? = w[t]? := by
  rw [← List.getElem?_take_of_lt ht, take_extendSchedule]

/-- Each new word is the next word of those before it. -/
theorem getElem?_extendSchedule {n t : Nat} {w : List Word} (hw : w.length ≤ t)
    (ht : t < w.length + n) :
    (extendSchedule n w)[t]? = some (nextWord ((extendSchedule n w).take t)) := by
  induction n generalizing w with
  | zero => omega
  | succ n ih =>
    rcases hw.eq_or_lt with rfl | hlt
    · have hnew : (extendSchedule n (w ++ [nextWord w]))[w.length]? = some (nextWord w) := by
        rw [getElem?_extendSchedule_of_lt n (by simp), List.getElem?_concat_length]
      rw [take_extendSchedule (n + 1) w]
      exact hnew
    · exact ih (by simpa using hlt) (by rw [List.length_append, List.length_singleton]; omega)

/-- The recurrence of R168, read from the first t words of a schedule. -/
theorem nextWord_take {w : List Word} {t : Nat} (h16 : 16 ≤ t) (ht : t ≤ w.length) :
    nextWord (w.take t) = smallSigma1 (w.getD (t - 2) 0) + w.getD (t - 7) 0 +
      smallSigma0 (w.getD (t - 15) 0) + w.getD (t - 16) 0 := by
  have hget {j : Nat} (hj : j < t) : (w.take t).getD j 0 = w.getD j 0 := by
    rw [List.getD_eq_getElem?_getD, List.getElem?_take_of_lt hj, List.getD_eq_getElem?_getD]
  simp only [nextWord, List.length_take, Nat.min_eq_left ht]
  rw [hget (by omega), hget (by omega), hget (by omega), hget (by omega)]

/-- Settles O27: the sixteen block words stay, and each of the 48 words after them is the next word. -/
theorem scheduleRecurrence : Obligations.ScheduleRecurrence := by
  unfold Obligations.ScheduleRecurrence
  intro P
  have hlen : (schedule P).length = 64 := by simp [schedule]
  refine ⟨hlen, fun t ht => ?_, fun t h16 h64 => ?_⟩
  · have hblock : (schedule P)[t]? = some (blockWord P t) := by
      rw [schedule, getElem?_extendSchedule_of_lt 48 (by simpa using ht)]
      simp [ht]
    rw [List.getD_eq_getElem?_getD, hblock, Option.getD_some, blockWord]
  · have hnext : (schedule P)[t]? = some (nextWord ((schedule P).take t)) :=
      getElem?_extendSchedule (by simpa using h16) (by simpa using h64)
    rw [List.getD_eq_getElem?_getD, hnext, Option.getD_some, nextWord_take h16 (by omega)]

/-! ### The checksum (R170) -/

theorem Digest.toNat_h0 (d : Digest) : d.h0.toNat = d.value.toNat / 2 ^ 224 := by
  have h : d.h0 = d.value.extractLsb' 224 32 := d.word_eq_extractLsb' 0
  rw [h, BitVec.extractLsb'_toNat, Nat.shiftRight_eq_div_pow, Nat.mod_eq_of_lt]
  exact Nat.div_lt_of_lt_mul d.value.isLt

theorem toNat_firstByte (x : Word) : (x.extractLsb' 24 8).toNat = x.toNat / 2 ^ 24 := by
  rw [BitVec.extractLsb'_toNat, Nat.shiftRight_eq_div_pow, Nat.mod_eq_of_lt]
  exact Nat.div_lt_of_lt_mul x.isLt

/-- Settles O28: shifting down to the first word, or to its first byte, and then on is one shift. -/
theorem checksumIsTopOfDigest : Obligations.ChecksumIsTopOfDigest := by
  unfold Obligations.ChecksumIsTopOfDigest
  intro d cs _ h8
  have hvalue := toNat_checksum d (show cs ≤ 256 by omega)
  refine ⟨hvalue, ?_, ?_⟩
  · rw [hvalue, d.toNat_h0, Nat.div_div_eq_div_mul, ← pow_add,
      show 224 + (32 - cs) = 256 - cs by omega]
  · rw [hvalue, toNat_firstByte, d.toNat_h0, Nat.div_div_eq_div_mul, Nat.div_div_eq_div_mul,
      ← pow_add, ← pow_add, show 224 + (24 + (8 - cs)) = 256 - cs by omega]

/-! ### The worked digests (R174) -/

theorem hashWrap_sixteen_zero_bytes : hashWrap 128 0 = ⟨0x374708ff, 0xf7719dd5, 0x979ec875,
    0xd56cd228, 0x6f6d3cf7, 0xec317a3b, 0x25632aab, 0x28ec37bb⟩ := by decide +kernel

theorem hashWrap_thirtyTwo_zero_bytes : hashWrap 256 0 = ⟨0x66687aad, 0xf862bd77, 0x6c8fc18b,
    0x8e9f8e20, 0x08971485, 0x6ee233b3, 0x902a591d, 0x0d5f2925⟩ := by decide +kernel

/-- Settles O29: the two hashes evaluate to these digests, and the checksums are read from them. -/
theorem workedDigests : Obligations.WorkedDigests := by
  unfold Obligations.WorkedDigests
  rw [hashWrap_sixteen_zero_bytes, hashWrap_thirtyTwo_zero_bytes]
  exact ⟨rfl, by decide +kernel, rfl, by decide +kernel⟩

end Sys2Proof.Machine
end

section
/-! Exceptions: the illegal command word, the causes of a bus error, and what the host can change while a hash runs
(R204, R206, R207, R209, R236). -/

namespace Sys2Proof.Machine

/-! ### The illegal word (R105, R204) -/

/-- Settles O9: an idle block accepts the word, and ILLEGAL is raised on the accepted state. -/
theorem illegalWordRaisesIllegal : Obligations.IllegalWordRaisesIllegal := by
  unfold Obligations.IllegalWordRaisesIllegal
  intro s v why rest hv hb hs
  rw [step_of_cmdWrite hs, commandWord_of_illegal hv,
    command_of_idle (s := ackWrite { s with inputs := rest }) hb]
  rfl

/-! ### Bus errors (R207, R209) -/

theorem aligned_iff {off : Offset} : aligned off = true ↔ off.toNat % 4 = 0 := by
  simp [aligned, BitVec.toNat_eq]

/-- An aligned offset outside the reserved ranges is that of a register (R35, R41). -/
theorem exists_regOffset_of_mapped {off : Offset} (ha : off.toNat % 4 = 0)
    (hm : ¬ (off.toNat = 0x0C ∨ (0x34 ≤ off.toNat ∧ off.toNat ≤ 0x3C) ∨ 0x60 ≤ off.toNat)) :
    ∃ r, off = regOffset r := by
  rcases (by omega : off.toNat = 0x00 ∨ off.toNat = 0x04 ∨ off.toNat = 0x08 ∨
      (0x10 ≤ off.toNat ∧ off.toNat ≤ 0x30) ∨ (0x40 ≤ off.toNat ∧ off.toNat ≤ 0x5C)) with
    h | h | h | h | h
  · exact ⟨.cmd, BitVec.eq_of_toNat_eq h⟩
  · exact ⟨.status, BitVec.eq_of_toNat_eq h⟩
  · exact ⟨.check, BitVec.eq_of_toNat_eq h⟩
  · exact ⟨.bits ⟨(off.toNat - 0x10) / 4, by omega⟩, eq_regOffset_bits (by dsimp only; omega)⟩
  · exact ⟨.digest ⟨(off.toNat - 0x40) / 4, by omega⟩, eq_regOffset_digest (by dsimp only; omega)⟩

theorem writeError_regOffset {r : Reg} (hr : r ≠ .cmd) :
    writeError (regOffset r) = some .readOnly := by
  simp only [writeError, aligned_regOffset, regAt_eq_some.mpr rfl]
  cases r with
  | cmd => exact absurd rfl hr
  | status => rfl
  | check => rfl
  | bits j => rfl
  | digest j => rfl

/-- Where the registers other than CMD lie (R35). -/
theorem regOffset_readOnly_ranges {r : Reg} (hr : r ≠ .cmd) :
    (regOffset r).toNat = 0x04 ∨ (regOffset r).toNat = 0x08 ∨
      (0x10 ≤ (regOffset r).toNat ∧ (regOffset r).toNat ≤ 0x30) ∨
      (0x40 ≤ (regOffset r).toNat ∧ (regOffset r).toNat ≤ 0x5C) := by
  cases r with
  | cmd => exact absurd rfl hr
  | status => decide
  | check => decide
  | bits j => simp only [regOffset, BitVec.toNat_ofNat]; omega
  | digest j => simp only [regOffset, BitVec.toNat_ofNat]; omega

/-- How the bus judges an offset, in the order of R209: misaligned, reserved, CMD, or a register that is only read. -/
theorem busError_cases (off : Offset) :
    (off.toNat % 4 ≠ 0 ∧ readError off = some .misaligned ∧ writeError off = some .misaligned) ∨
    (off.toNat % 4 = 0 ∧
      (off.toNat = 0x0C ∨ (0x34 ≤ off.toNat ∧ off.toNat ≤ 0x3C) ∨ 0x60 ≤ off.toNat) ∧
      readError off = some .unmapped ∧ writeError off = some .unmapped) ∨
    (off.toNat = 0x00 ∧ readError off = none ∧ writeError off = none) ∨
    (off.toNat % 4 = 0 ∧
      (off.toNat = 0x04 ∨ off.toNat = 0x08 ∨ (0x10 ≤ off.toNat ∧ off.toNat ≤ 0x30) ∨
        (0x40 ≤ off.toNat ∧ off.toNat ≤ 0x5C)) ∧
      readError off = none ∧ writeError off = some .readOnly) := by
  by_cases ha : aligned off = true
  · have hmod := aligned_iff.mp ha
    cases hreg : regAt off with
    | none =>
      refine .inr (.inl ⟨hmod, ?_, by simp [readError, ha, hreg], by simp [writeError, ha, hreg]⟩)
      by_contra hm
      obtain ⟨r, hr⟩ := exists_regOffset_of_mapped hmod hm
      rw [regAt_eq_some.mpr hr] at hreg
      cases hreg
    | some r =>
      obtain rfl := regAt_eq_some.mp hreg
      have hread : readError (regOffset r) = none := readError_eq_none.mpr ⟨r, rfl⟩
      by_cases hr : r = .cmd
      · subst hr
        exact .inr (.inr (.inl ⟨rfl, hread, writeError_eq_none.mpr rfl⟩))
      · exact .inr (.inr (.inr ⟨hmod, regOffset_readOnly_ranges hr, hread, writeError_regOffset hr⟩))
  · exact .inl ⟨mt aligned_iff.mpr ha, by simp [readError, ha], by simp [writeError, ha]⟩

/-- A read of 4 bytes drives the ports with its response (R55). -/
theorem hostTransaction_read (off : Offset) (s : State) :
    hostTransaction (.read off 4) s = .next (respond (readResponse off s) s) := rfl

/-- A CMD write answers `bus_err = 0`, whatever becomes of its word (R56, R207). -/
theorem exists_memWrite_cmd_without_error (v : Word) (s : State) :
    ∃ t, memWrite 0x00 v s = .next t ∧ t.bus.err = false := by
  obtain ⟨t, ht⟩ := exists_commandWord_eq_next v (ackWrite s)
  exact ⟨t, (memWrite_cmd v s).trans ht, by rw [commandWord_bus ht, ackWrite_bus]⟩

/-- Settles O38: the judgement of an offset has four cases, and a transaction's response follows from whether it is refused. -/
theorem busErrorCauses : Obligations.BusErrorCauses := by
  unfold Obligations.BusErrorCauses
  refine ⟨fun off => ?_, fun s off v => ⟨fun h => ?_, fun h => ?_, fun h => ?_, fun h => ?_⟩⟩
  · rcases busError_cases off with ⟨hoff, hr, hw⟩ | ⟨hmod, hoff, hr, hw⟩ | ⟨hoff, hr, hw⟩ |
        ⟨hmod, hoff, hr, hw⟩ <;>
      simp only [hr, hw, reduceCtorEq, Option.some.injEq, ne_eq, not_false_eq_true, true_iff,
        false_iff, true_and] <;>
      omega
  · rw [hostTransaction_read, readResponse_of_error h]
    rfl
  · exact memWrite_of_ne_cmd (mt writeError_eq_none.mpr h) v s
  · obtain ⟨r, rfl⟩ := readError_eq_none.mp h
    rw [hostTransaction_read, readResponse_regOffset]
    exact ⟨_, rfl, rfl⟩
  · obtain rfl := writeError_eq_none.mp h
    exact exists_memWrite_cmd_without_error v s

/-! ### While a hash runs (R206, R236) -/

/-- The host changes OVR of a running block by a CMD write only (R206). -/
theorem step_OVR_changed_of_hashOutlives {s t : State} (hstep : step s = .next t) {e : Event}
    {rest : List Event} (hb : s.BUSY = true) (hs : s.inputs = e :: rest)
    (he : hashOutlives e = true) (hne : t.OVR ≠ s.OVR) :
    t.OVR = true ∧ ∃ v, e = .host (.write 0x00 4 v) := by
  rcases step_OVR_changed hstep hne with
    ⟨hovr, -, v, rest', hi⟩ | ⟨-, ⟨presented, rest', hi⟩ | ⟨hidle, -⟩⟩
  · rw [hs] at hi
    exact ⟨hovr, v, (List.cons.inj hi).1⟩
  · rw [hs] at hi
    rw [(List.cons.inj hi).1] at he
    cases he
  · rw [hb] at hidle
    cases hidle

/-- Settles O43: the event leaves all but OVR, and the flags of a running hash are those of the invariant. -/
theorem resultsStaleWhileBusy : Obligations.ResultsStaleWhileBusy := by
  unfold Obligations.ResultsStaleWhileBusy
  intro s e rest hinv hb hs he
  obtain ⟨hdone, hvalid, -⟩ := hinv.busy_flags hb
  obtain ⟨t, ht, hsame⟩ := takeEvent_of_hashOutlives he (s := { s with inputs := rest }) hb
  have hstep : step s = .next t := (step_of_scheduled hs).trans ht
  have hinputs : t.inputs = rest := takeEvent_inputs ht
  have hovr := step_OVR_changed_of_hashOutlives hstep hb hs he
  obtain ⟨_, _, _, _, rfl⟩ := hsame
  exact ⟨_, hstep, hinputs, hb, rfl, hdone, hvalid, rfl, rfl, rfl, rfl, rfl, rfl, rfl, hovr⟩

end Sys2Proof.Machine
end

section
/-! The reset edge and the end of a run (R231, R232, R242). -/

namespace Sys2Proof.Machine

@[simp] theorem bitsWord_zero (j : Fin 9) : bitsWord 0 j = 0 := by
  unfold bitsWord
  split <;> simp

/-- Every register reads 0 after a reset edge (R42). -/
theorem regValue_resetEdge (s : State) (r : Reg) : regValue (resetEdge s) r = 0 := by
  cases r with
  | cmd => rfl
  | status => exact (by decide : statusWord State.reset = 0)
  | check => exact (by decide : checkWord State.reset = 0)
  | bits j => exact bitsWord_zero j
  | digest j => exact (by decide : ∀ j : Fin 8, Digest.zero.word j = 0) j

/-- Settles O35: the step is the reset edge, which has every element at its reset value by definition. -/
theorem resetEdgeClearsEverything : Obligations.ResetEdgeClearsEverything := by
  unfold Obligations.ResetEdgeClearsEverything
  intro s presented rest hs
  exact ⟨_, step_of_reset hs, rfl, rfl, rfl, rfl, rfl, rfl, rfl, rfl, rfl, rfl, rfl, rfl, rfl, rfl, rfl,
    regValue_resetEdge _⟩

/-- What can be read at the end of a run does not show the ports (R242). -/
theorem finalObservation_respond (out : BusOut) (s : State) :
    finalObservation (respond out s) = finalObservation s :=
  List.map_congr_left fun r _ => regValue_withInputsBus s s.inputs out r

/-- A step of a run that has ended is a cycle without a transaction (R52, R242). -/
theorem step_of_final {s : State} (h : Final s) : step s = .next (respond busQuiet s) := by
  obtain ⟨hs, hb⟩ := h
  rw [step_of_unscheduled hs, unscheduled, hb]
  rfl

/-- Settles O45: a run that has ended only drives the ports, and the step of a busy one is its completion. -/
theorem finishedRunIsStable : Obligations.FinishedRunIsStable := by
  unfold Obligations.FinishedRunIsStable
  refine ⟨fun s hfinal => ?ended, fun s hinv hs hb => ?busy⟩
  case ended => exact ⟨_, step_of_final hfinal, hfinal, finalObservation_respond busQuiet s⟩
  case busy =>
    obtain ⟨q, hq⟩ := Option.ne_none_iff_exists'.mp (hinv.busy_iff_pend.mp hb)
    refine ⟨fun ⟨_, hidle⟩ => ?_, _, step_of_completion ⟨hb, .inl hs⟩ hq, ⟨?_, rfl⟩, rfl⟩
    · exact Bool.false_ne_true (hidle.symm.trans hb)
    · rw [hs]
      rfl

end Sys2Proof.Machine
end

section
/-! The countdown of a hash at the pins: it starts at HASH_LATENCY, goes down by one at each edge whatever the host presents,
and ends with the completion (R240, R241; log entry 10). -/

namespace Sys2Proof.Machine

/-! ### The start of the countdown -/

/-- An accepted command that leaves BUSY = 1 has started a hash (R131, R239). -/
theorem acceptedEffect_starts_pending {i : Instr} {s : State} (hs : s.BUSY = false)
    (h : (acceptedEffect i (accept s)).BUSY = true) :
    ∃ q, (acceptedEffect i (accept s)).PEND = some q := by
  obtain ⟨t, ht, hcase⟩ := commandCompletesOrHashes i s hs
  obtain rfl := Host.Outcome.next.inj ((exec_of_idle hs i).symm.trans ht)
  rcases hcase with ⟨hidle, -⟩ | ⟨-, -, hpend, -⟩
  · exact absurd (hidle.symm.trans h) Bool.false_ne_true
  · exact Option.ne_none_iff_exists'.mp hpend

/-- An event that raises BUSY has started a hash, so something is pending (R23, R32). -/
theorem takeEvent_starts_pending {e : Event} {s t : State} (h : takeEvent e s = .next t)
    (hs : s.BUSY = false) (ht : t.BUSY = true) : ∃ q, t.PEND = some q := by
  rcases takeEvent_cases h with ⟨out, rfl⟩ | ⟨v, -, hv⟩ | ⟨-, rfl⟩ | ⟨presented, -, rfl⟩
  · exact absurd (hs.symm.trans ht) Bool.false_ne_true
  · rcases commandWord_next_cases hv with ⟨hb, -⟩ | ⟨i, -, hb, rfl⟩ | ⟨hb, rfl⟩
    · exact absurd (hs.symm.trans hb) Bool.false_ne_true
    · exact acceptedEffect_starts_pending hb ht
    · exact absurd (hb.symm.trans ht) Bool.false_ne_true
  · rw [engineTurn, engineTurnWith_of_idle hashWrap hs] at ht
    exact absurd (hs.symm.trans ht) Bool.false_ne_true
  · cases ht

/-- A turn of the engine leaves no hash running where a running hash is pending (R43 item 3, R133). -/
theorem engineTurn_ends_BUSY {s : State} (h : s.BUSY = true → ∃ q, s.PEND = some q) :
    (engineTurn s).BUSY = false := by
  cases hb : s.BUSY with
  | false => exact (congrArg State.BUSY (engineTurnWith_of_idle hashWrap hb)).trans hb
  | true =>
    obtain ⟨q, hq⟩ := h hb
    rw [engineTurn_of_pend hb hq, completeWith_BUSY]

/-- An edge that raises BUSY starts the countdown at HASH_LATENCY of the pending length, whatever stood in it (R240). -/
theorem clockEdge_starts_countdown (P : Params) {p : Pins} {c d : Clocked}
    (hedge : clockEdge P p c = .next d) (hc : c.block.BUSY = false) (hd : d.block.BUSY = true) :
    ∃ q, d.block.PEND = some q ∧ d.left = some (P.hashLatency q.PL.toNat) := by
  cases hrst : p.rstN with
  | false =>
    obtain rfl := Host.Outcome.next.inj ((clockEdge_of_reset P c hrst).symm.trans hedge)
    cases hd
  | true =>
    obtain ⟨t, ht⟩ := takeEvent_busEvent p c.block
    have hnext := Host.Outcome.next.inj ((clockEdge_of_running P hrst ht).symm.trans hedge)
    have hpend : t.BUSY = true → ∃ q, t.PEND = some q := takeEvent_starts_pending ht hc
    by_cases hdue : c.left = some 1
    · rw [if_pos hdue] at hnext
      subst hnext
      exact absurd ((engineTurn_ends_BUSY hpend).symm.trans hd) Bool.false_ne_true
    · rw [if_neg hdue] at hnext
      subst hnext
      obtain ⟨q, hq⟩ := hpend hd
      exact ⟨q, hq, by rw [countdown_of_start P c.left hc hd, hq, Option.map_some]⟩

/-! ### While it runs -/

/-- What the pins present with `rst_n = 1` never stops a running hash (R206, R236). -/
theorem hashOutlives_busEvent (p : Pins) : hashOutlives (busEvent p) = true := by
  unfold busEvent Pins.txn
  cases p.busSel <;> cases p.busWe <;> rfl

section

variable (P : Params)

/-- An edge before the last one takes one off the countdown and leaves the running hash (R240). -/
theorem clockEdge_counts_down {p : Pins} {c : Clocked} {m : Nat} (hrst : p.rstN = true)
    (hb : c.block.BUSY = true) (hleft : c.left = some (m + 2)) :
    ∃ d, clockEdge P p c = .next d ∧ SameButOverrun c.block d.block ∧ d.left = some (m + 1) := by
  obtain ⟨t, ht, hsame⟩ := takeEvent_of_hashOutlives (hashOutlives_busEvent p) hb
  obtain ⟨hbusy, -⟩ := hsame.fields
  have hnotDue : c.left ≠ some 1 := by simp [hleft]
  refine ⟨_, clockEdge_of_running P hrst ht, ?_⟩
  rw [if_neg hnotDue, countdown_of_running P c.left hb (hbusy.trans hb), hleft]
  exact ⟨hsame, rfl⟩

theorem clockEdges_cons_of_next {p : Pins} {c d : Clocked} (h : clockEdge P p c = .next d)
    (ps : List Pins) : clockEdges P (p :: ps) c = clockEdges P ps d := by
  simp only [clockEdges, h]

/-- At most `n` edges with `n + 1` left end in a state in which the same hash runs, and further edges go on from there. -/
theorem clockEdges_count_down {ps : List Pins} {c : Clocked} {n : Nat}
    (hrst : ps.all (fun p => p.rstN) = true) (hb : c.block.BUSY = true)
    (hleft : c.left = some (n + 1)) (hlen : ps.length ≤ n) :
    ∃ d, (∀ qs, clockEdges P (ps ++ qs) c = clockEdges P qs d) ∧
      SameButOverrun c.block d.block ∧ d.left = some (n + 1 - ps.length) := by
  induction ps generalizing c n with
  | nil => exact ⟨c, fun _ => rfl, ⟨_, _, _, _, rfl⟩, hleft⟩
  | cons p ps ih =>
    obtain ⟨hp, hps⟩ := Bool.and_eq_true_iff.mp hrst
    obtain ⟨m, rfl⟩ : ∃ m, n = m + 1 := Nat.exists_eq_add_one.mpr (Nat.zero_lt_of_lt hlen)
    obtain ⟨u, hu, hcu, hleft⟩ := clockEdge_counts_down P hp hb hleft
    obtain ⟨hbusy, -⟩ := hcu.fields
    obtain ⟨d, hrun, hud, hd⟩ := ih hps (hbusy.trans hb) hleft (Nat.le_of_succ_le_succ hlen)
    refine ⟨d, fun qs => (clockEdges_cons_of_next P hu (ps ++ qs)).trans (hrun qs), hcu.trans hud, ?_⟩
    rw [hd, List.length_cons, Nat.add_sub_add_right]

/-- The last edge completes the hash, whatever the host presents at it (R210, R240). -/
theorem clockEdge_completes_pending {p : Pins} {c : Clocked} {q : Pending} (hrst : p.rstN = true)
    (hb : c.block.BUSY = true) (hq : c.block.PEND = some q) (hleft : c.left = some 1) :
    ∃ t, clockEdge P p c = .next ⟨completeWith hashWrap q t, none⟩ := by
  obtain ⟨t, ht, hsame⟩ := takeEvent_of_hashOutlives (hashOutlives_busEvent p) hb
  obtain ⟨hbusy, hpend, -⟩ := hsame.fields
  exact ⟨t, clockEdge_completes P hrst hleft ht (hbusy.trans hb) (hpend.trans hq)⟩

end

/-- Settles O47: the edges before the last count down and leave the hash, and the last one completes it. -/
theorem hashTakesItsLatency : Obligations.HashTakesItsLatency := by
  unfold Obligations.HashTakesItsLatency
  refine fun P => ⟨fun p c d => clockEdge_starts_countdown P,
    fun c n ps hinv hb hleft hrst => ⟨fun hlen => ?running, fun hlen => ?completed⟩⟩
  case running =>
    obtain ⟨d, hrun, hsame, hd⟩ := clockEdges_count_down P hrst hb hleft hlen
    obtain ⟨hbusy, hpend, -⟩ := hsame.fields
    have hend : clockEdges P ps c = .next d := by
      rw [← List.append_nil ps]
      exact hrun []
    exact ⟨d, hend, hbusy.trans hb, hpend, hd⟩
  case completed =>
    obtain ⟨q, hq⟩ := Option.ne_none_iff_exists'.mp (hinv.busy_iff_pend.mp hb)
    obtain rfl | ⟨before, p, rfl⟩ := List.eq_nil_or_concat' ps
    · cases hlen
    obtain ⟨hbefore, hp⟩ : before.all (fun p => p.rstN) = true ∧ p.rstN = true := by
      simpa using hrst
    have hn : before.length = n := by simpa using hlen
    obtain ⟨d, hrun, hsame, hd⟩ := clockEdges_count_down P hbefore hb hleft hn.le
    obtain ⟨hbusy, hpend, -⟩ := hsame.fields
    have hlast : d.left = some 1 := by rw [hd, hn, Nat.add_sub_cancel_left]
    obtain ⟨t, ht⟩ := clockEdge_completes_pending P hp (hbusy.trans hb) (hpend.trans hq) hlast
    exact ⟨_, (hrun [p]).trans (clockEdges_cons_of_next P ht []), rfl, rfl, rfl,
      sameResults_engineTurn hb hq t⟩

end Sys2Proof.Machine
end
